-- ==== Sys2Proof/Word.lean ====
section
/-! DEFINITION. The value types of the hardware (spec/00_scope.md R10, R11, R18): plain bit vectors, bit 0 least
significant. Arithmetic is `BitVec`'s, unsigned and modular, as R12 and 40_bit_utilities.md R173 ask. -/

namespace Sys2Proof

/-- A standard byte value (R13, 20_memory.md R88). -/
abbrev Byte := BitVec 8

/-- A `u32`: a SHA-1 word, a bus word, a command word (R11, R18). -/
abbrev Word := BitVec 32

/-- A `u64`: a Keccak lane, or LEN (R11, R18). -/
abbrev Lane := BitVec 64

/-- A byte offset in the register window, in [0, 0x400) (20_memory.md R80). -/
abbrev Offset := BitVec 10

end Sys2Proof
end

