-- ==== Sys2Proof/Config.lean ====
section
/-! DEFINITION. What the spec fixes or leaves open for an implementation: the error codes (60_exceptions.md R330), the
open base address (00_scope.md R9), and the FREE VALUES. A free value is an `opaque` constant without a body: nothing
proves anything about the value it takes. -/

namespace Sys2Proof

/-- The causes of a core error, by the names of 60_exceptions.md R330 (code 0 is "no error" and names no cause). -/
inductive ErrCode where
  /-- CMD written, while idle, with OPC not in the opcode map. -/
  | illegalOpcode
  /-- CMD written, while idle, with RSV ≠ 0, or with N ≠ 0 for a format-Z command. -/
  | reservedBits
  /-- CMD written, while idle, as SHA1_PAD with N > 63 or SHA3_PAD with N > 135. -/
  | badCount
  /-- CMD or a data register written while STATUS.BUSY = 1. -/
  | busy
  deriving DecidableEq, Repr

namespace Config

/-- FREE VALUE: `ANY_u32`, the word a data register reads as while BUSY = 1 (20_memory.md R85, 70_reset_and_hazards.md
R381: "a model draws it freely"). Applied to the counter `State.draws`, so every such read is a fresh draw.
Log entry 3. -/
opaque anyU32 : Nat → Word

/-- OPEN parameter: `CORE_BASE` in units of 0x400 (00_scope.md R9, 20_memory.md R80). -/
opaque coreBaseUnits : Nat

/-- OPEN parameter `CORE_BASE`: the host address of the register window, a multiple of 0x400 (20_memory.md R80). -/
def coreBase : Nat := coreBaseUnits * 0x400

/-- FREE VALUE: what `hex_decode` makes of the empty string, which the source does not state
(40_bit_utilities.md R172, 91_not_in_source.md N13). Host-side reference only. Log entry 12. -/
opaque hexDecodeEmpty (w : Nat) : Option (BitVec w)

end Config

end Sys2Proof
end

