-- ==== Sys2Proof/Machine/Bits.lean ====
section
/-! DEFINITION. The bit and word primitives of 40_bit_utilities.md and the byte views of 00_scope.md R13, defined once for
every width. Primitives set no flag and raise no error. -/

namespace Sys2Proof.Machine

/-- True mathematical modulo for a signed `x` and `n > 0`: `x - n * floor(x / n)` (R160). -/
def modulo (x n : Int) : Int := x - n * (x.fdiv n)

/-- `rotl_w(v, n)`: rotate left by `n mod w`, never shifting by the full width (R161). -/
def rotl {w : Nat} (v : BitVec w) (n : Nat) : BitVec w :=
  if n % w = 0 then v else (v <<< (n % w)) ||| (v >>> (w - n % w))

/-- `rotr_w(v, n)`: rotate right by `n mod w` (R162). -/
def rotr {w : Nat} (v : BitVec w) (n : Nat) : BitVec w := rotl v ((w - n % w) % w)

/-- `get_bit_le(v, i)`, bit i from the least significant end; an index outside [0, w) is refused (R163). -/
def getBitLE {w : Nat} (v : BitVec w) (i : Nat) : Option Bool := if i < w then some (v.getLsbD i) else none

/-- `get_bit_be(v, i)`, index 0 the top bit; an index outside [0, w) is refused (R164). -/
def getBitBE {w : Nat} (v : BitVec w) (i : Nat) : Option Bool :=
  if i < w then some (v.getLsbD (w - 1 - i)) else none

/-- `set_bit(v, i, le)`: the bit `getBitLE v i` reads, set to 1 (R165). -/
def setBitLE {w : Nat} (v : BitVec w) (i : Nat) : Option (BitVec w) :=
  if i < w then some (v ||| (1#w <<< i)) else none

/-- `set_bit(v, i, be)`: the bit `getBitBE v i` reads, set to 1 (R165). -/
def setBitBE {w : Nat} (v : BitVec w) (i : Nat) : Option (BitVec w) :=
  if i < w then some (v ||| (1#w <<< (w - 1 - i))) else none

/-- `toggle_bit(v, i, le) = v ^ (1 << i)` (R166). -/
def toggleBitLE {w : Nat} (v : BitVec w) (i : Nat) : Option (BitVec w) :=
  if i < w then some (v ^^^ (1#w <<< i)) else none

/-- `toggle_bit(v, i, be) = v ^ (1 << (w - 1 - i))` (R166). -/
def toggleBitBE {w : Nat} (v : BitVec w) (i : Nat) : Option (BitVec w) :=
  if i < w then some (v ^^^ (1#w <<< (w - 1 - i))) else none

/-- The `w`-bit value whose bit `i` is `g i`. -/
def ofBits : (w : Nat) → (g : Nat → Bool) → BitVec w
  | 0, _ => 0#0
  | w + 1, g => BitVec.cons (g w) (ofBits w g)

/-- `reverse_bits(v)`: bit i of the result is bit `w - 1 - i` of v (R167). -/
def reverseBits {w : Nat} (v : BitVec w) : BitVec w := ofBits w fun i => v.getLsbD (w - 1 - i)

/-- `reverse_bits_within_bytes(v)`: byte order kept, each byte's bits reversed (R168). -/
def reverseBitsWithinBytes {w : Nat} (v : BitVec w) : BitVec w :=
  ofBits w fun i => v.getLsbD (8 * (i / 8) + (7 - i % 8))

/-- `reverse_byte_order(v)`: byte k of the result is byte `w/8 - 1 - k` of v (R169). -/
def reverseByteOrder {w : Nat} (v : BitVec w) : BitVec w :=
  ofBits w fun i => v.getLsbD (8 * (w / 8 - 1 - i / 8) + i % 8)

/-- `byte_k(v) = v[8k+7 : 8k]`, counted from the least significant end (00_scope.md R13). -/
def byteOf {w : Nat} (k : Nat) (v : BitVec w) : Byte := v.extractLsb' (8 * k) 8

/-- `BE32(b0,b1,b2,b3)`: the first byte most significant (00_scope.md R13). -/
def be32 (b0 b1 b2 b3 : Byte) : Word := b0 ++ b1 ++ b2 ++ b3

/-- `LE64(b0..b7)`: the first byte least significant (00_scope.md R13). -/
def le64 (b0 b1 b2 b3 b4 b5 b6 b7 : Byte) : Lane := b7 ++ b6 ++ b5 ++ b4 ++ b3 ++ b2 ++ b1 ++ b0

/-- The four bytes of a word, most significant first: `BE32⁻¹` (41_sha1.md R230). -/
def bytesBE32 (v : Word) : List Byte := [byteOf 3 v, byteOf 2 v, byteOf 1 v, byteOf 0 v]

/-- `BE64(L)`: the eight bytes of L, most significant first (41_sha1.md R213). -/
def bytesBE64 (v : Lane) : List Byte :=
  [byteOf 7 v, byteOf 6 v, byteOf 5 v, byteOf 4 v, byteOf 3 v, byteOf 2 v, byteOf 1 v, byteOf 0 v]

/-- `bytes_LE(v) = byte_0(v), ..., byte_7(v)` (42_sha3_keccak.md R288). -/
def bytesLE64 (v : Lane) : List Byte :=
  [byteOf 0 v, byteOf 1 v, byteOf 2 v, byteOf 3 v, byteOf 4 v, byteOf 5 v, byteOf 6 v, byteOf 7 v]

/-- `v[31:0]` of a 64-bit value: the half at the lower offset (10_state.md R42, R47, R48). -/
def loHalf (v : Lane) : Word := v.extractLsb' 0 32

/-- `v[63:32]` of a 64-bit value: the half at the higher offset (10_state.md R42, R47, R48). -/
def hiHalf (v : Lane) : Word := v.extractLsb' 32 32

/-- `v[63:32] || x`: the low half replaced (20_memory.md R86). -/
def setLoHalf (v : Lane) (x : Word) : Lane := hiHalf v ++ x

/-- `x || v[31:0]`: the high half replaced (20_memory.md R86). -/
def setHiHalf (v : Lane) (x : Word) : Lane := x ++ loHalf v

/-- The lowercase hex digit of a value below 16. -/
def hexDigit (d : Nat) : Char := Char.ofNat (if d < 10 then 0x30 + d else 0x57 + d)

/-- The value of a character in `[0-9a-f]`; `none` for any other character. -/
def hexValue (ch : Char) : Option Nat :=
  if 0x30 ≤ ch.toNat ∧ ch.toNat ≤ 0x39 then some (ch.toNat - 0x30)
  else if 0x61 ≤ ch.toNat ∧ ch.toNat ≤ 0x66 then some (ch.toNat - 0x57)
  else none

/-- `hex_encode(v)`: `2 * (w/8)` lowercase hex digits, the most significant first (R171). Host-side reference only. -/
def hexEncode {w : Nat} (v : BitVec w) : List Char :=
  (List.range (2 * (w / 8))).map fun k => hexDigit (v.toNat / 16 ^ (2 * (w / 8) - 1 - k) % 16)

/-- The value of a string of hex digits, most significant first, after `acc`; `none` on any other character. -/
def hexFold : Nat → List Char → Option Nat
  | acc, [] => some acc
  | acc, ch :: rest =>
    match hexValue ch with
    | some d => hexFold (16 * acc + d) rest
    | none => none

/-- `hex_decode(s)`: rejects a string longer than `2 * (w/8)` or with a character outside `[0-9a-f]` (R172). Host-side
reference only. What it makes of the empty string is not stated, so that one value is free (log entry 12). -/
def hexDecode (w : Nat) (s : List Char) : Option (BitVec w) :=
  if s = [] then Config.hexDecodeEmpty w
  else if 2 * (w / 8) < s.length then none
  else (hexFold 0 s).map (BitVec.ofNat w)

end Sys2Proof.Machine
end

