-- ==== Sys2Proof/Machine/Params.lean ====
section
/-! DEFINITION. Fixed values that State.reset and the meanings share. -/

namespace Sys2Proof.Machine

/-- ID_VALUE, what every read of ID returns (10_state.md R33). -/
def idValue : Word := 0x47564831

/-- The SHA-1 initial chaining values IV[0..4] (41_sha1.md R200). -/
def sha1IV : Vector Word 5 := #v[0x67452301, 0xEFCDAB89, 0x98BADCFE, 0x10325476, 0xC3D2E1F0]

end Sys2Proof.Machine
end

