-- ==== Sys2Proof/Machine/State.lean ====
section
/-! DEFINITION. The state of the core as plain data (10_state.md), the reasons a step can stop, and the state after reset
(R52). The fields in capitals are the spec's, under the spec's names; `inbox`, `reply` and `draws` are the MODEL's own
(log entries 2, 3 and 4). STATUS.BUSY is 1 exactly when PEND holds a command (R35), so it is computed from PEND and has no
field (log entry 1). ID and CMD hold no state (R33, R40). The core has no memory (R15, 20_memory.md R80; log entry 8). -/

namespace Sys2Proof.Machine

/-- The size of a bus transaction; only 32-bit ones are performed (20_memory.md R82). -/
inductive BusSize where
  | bits8
  | bits16
  | bits32
  | bits64
  | burst
  deriving DecidableEq, Repr

/-- One step of the total order of steps (10_state.md R30, 20_memory.md R93): a host transaction (R81), the engine's
completion step (R44 step 2), or the reset input (70_reset_and_hazards.md R370). -/
inductive Event where
  /-- A host `BusRead(off)`. -/
  | read (size : BusSize) (off : Offset)
  /-- A host `BusWrite(off, v)`; `v` matters for a 32-bit transaction only. -/
  | write (size : BusSize) (off : Offset) (v : Word)
  /-- The engine takes its completion step here, if a command is pending. -/
  | complete
  /-- The reset input is asserted. -/
  | reset
  deriving DecidableEq, Repr

/-- The bus response to a transaction (20_memory.md R81). -/
inductive Reply where
  /-- `Ok` to a read, with its value. -/
  | data (v : Word)
  /-- `Ok` to a write. -/
  | ok
  /-- `BusError`. -/
  | busError
  deriving DecidableEq, Repr

/-- Why the machine stops. -/
inductive Fault where
  /-- Raised by `step` alone: PEND holds a word that is no legal command. PEND takes only accepted words (R44), so no run
  from a state that meets `State.Inv` raises it. Safe: the model stops in a state the hardware cannot be in. -/
  | pendIllegal (code : ErrCode)
  deriving DecidableEq, Repr

/-- Why an instruction has no meaning. -/
inductive Refusal where
  /-- Raised by `exec` alone, for an instruction the model gives no meaning (none is left). Safe. -/
  | notModelled (mnemonic : String)
  deriving DecidableEq, Repr

/-- The state of the core. -/
@[ext]
structure State where
  /-- STATUS.DONE (R36). -/
  DONE : Bool
  /-- STATUS.ERR (R37). -/
  ERR : Bool
  /-- STATUS.XBLK (R38). -/
  XBLK : Bool
  /-- STATUS.ERRCODE (R39). -/
  ERRCODE : BitVec 4
  /-- IRQ_EN.DONE_IE (R41). -/
  DONE_IE : Bool
  /-- IRQ_EN.ERR_IE (R41). -/
  ERR_IE : Bool
  /-- LEN, the SHA-1 message length in bits (R42). -/
  LEN : Lane
  /-- H[0..4], the SHA-1 chaining values (R45). -/
  H : Vector Word 5
  /-- MB[0..15], the SHA-1 message block buffer (R46). -/
  MB : Vector Word 16
  /-- S[0..24], the Keccak-f[1600] state, lane (x, y) at index 5y + x (R47). -/
  S : Vector Lane 25
  /-- KB[0..16], the Keccak rate block buffer (R48). -/
  KB : Vector Lane 17
  /-- PEND, empty or the accepted command word (R43). -/
  PEND : Option Word
  /-- The model's own: the steps the environment has laid out, the first one next (log entry 2). -/
  inbox : List Event
  /-- The model's own: the response to the last host transaction; `none` before the first since reset (log entry 4). -/
  reply : Option Reply
  /-- The model's own: how many free values have been drawn (log entry 3). -/
  draws : Nat
  deriving DecidableEq, Repr

/-- The state right after reset (R52, 70_reset_and_hazards.md R370). The model's own fields start empty: DESIGN CHOICE, log
entries 2, 3 and 4. -/
def State.reset : State where
  DONE := false
  ERR := false
  XBLK := false
  ERRCODE := 0
  DONE_IE := false
  ERR_IE := false
  LEN := 0
  H := sha1IV
  MB := Vector.replicate 16 0
  S := Vector.replicate 25 0
  KB := Vector.replicate 17 0
  PEND := none
  inbox := []
  reply := none
  draws := 0

end Sys2Proof.Machine
end

