-- ==== Sys2Proof/Machine/Operands.lean ====
section
/-! DEFINITION. The operands of the commands: the byte views of the block buffers (10_state.md R46, R48), in both
directions. The byte count N is `BitVec.toNat` of the operand: zero-extended, unscaled (30_encoding.md R122). -/

namespace Sys2Proof.Machine

/-- Block byte p of MB: `MB[p div 4][31 - 8*(p mod 4) : 24 - 8*(p mod 4)]` (10_state.md R46). -/
def mbByte (mb : Vector Word 16) (p : Fin 64) : Byte :=
  (mb[p.val / 4]'(by omega)).extractLsb' (24 - 8 * (p.val % 4)) 8

/-- The MB whose block byte p is `g p`: `MB[k] = BE32(byte 4k, byte 4k+1, byte 4k+2, byte 4k+3)` (10_state.md R46). -/
def mbOfBytes (g : Fin 64 → Byte) : Vector Word 16 :=
  Vector.ofFn fun k : Fin 16 =>
    be32 (g ⟨4 * k.val, by omega⟩) (g ⟨4 * k.val + 1, by omega⟩) (g ⟨4 * k.val + 2, by omega⟩)
      (g ⟨4 * k.val + 3, by omega⟩)

/-- Block byte p of KB: `byte_(p mod 8)(KB[p div 8])` (10_state.md R48). -/
def kbByte (kb : Vector Lane 17) (p : Fin 136) : Byte := byteOf (p.val % 8) (kb[p.val / 8]'(by omega))

/-- The KB whose block byte p is `g p`: `KB[j] = LE64(byte 8j, ..., byte 8j+7)` (10_state.md R48). -/
def kbOfBytes (g : Fin 136 → Byte) : Vector Lane 17 :=
  Vector.ofFn fun j : Fin 17 =>
    le64 (g ⟨8 * j.val, by omega⟩) (g ⟨8 * j.val + 1, by omega⟩) (g ⟨8 * j.val + 2, by omega⟩)
      (g ⟨8 * j.val + 3, by omega⟩) (g ⟨8 * j.val + 4, by omega⟩) (g ⟨8 * j.val + 5, by omega⟩)
      (g ⟨8 * j.val + 6, by omega⟩) (g ⟨8 * j.val + 7, by omega⟩)

/-- The MB that holds the first 64 bytes of a byte list in order (bytes past its end are 0). -/
def mbOfList (b : List Byte) : Vector Word 16 := mbOfBytes fun p => b.getD p.val 0

/-- The KB that holds the first 136 bytes of a byte list in order (bytes past its end are 0). -/
def kbOfList (b : List Byte) : Vector Lane 17 := kbOfBytes fun p => b.getD p.val 0

end Sys2Proof.Machine
end

