-- ==== Sys2Proof/Machine/KeccakFunctions.lean ====
section
/-! DEFINITION. The functions of the Keccak-f[1600] unit (42_sha3_keccak.md sections 1 and 2). Lane coordinates are `Fin 5`,
whose arithmetic is modulo 5, as every coordinate expression of the spec is. Every step mapping reads its input array only
(R260). -/

namespace Sys2Proof.Machine

/-- A 25-lane array; lane (x, y) is at index 5y + x (10_state.md R47). -/
abbrev Lanes := Vector Lane 25

/-- `A[x,y]`, lane `A[5*y + x]` (10_state.md R47). -/
def laneAt (a : Lanes) (x y : Fin 5) : Lane := a[5 * y.val + x.val]

/-- The array whose lane (x, y) is `g x y`. -/
def ofLanes (g : Fin 5 → Fin 5 → Lane) : Lanes :=
  Vector.ofFn fun i : Fin 25 => g ⟨i.val % 5, by omega⟩ ⟨i.val / 5, by omega⟩

/-- The column parities C of θ (R261). -/
def thetaC (a : Lanes) : Vector Lane 5 :=
  Vector.ofFn fun x => laneAt a x 0 ^^^ laneAt a x 1 ^^^ laneAt a x 2 ^^^ laneAt a x 3 ^^^ laneAt a x 4

/-- `D[x] = C[(x-1) mod 5] ^ rotl_64(C[(x+1) mod 5], 1)` (R261). -/
def thetaD (par : Vector Lane 5) : Vector Lane 5 := Vector.ofFn fun x => par[x - 1] ^^^ rotl par[x + 1] 1

/-- θ (R261). -/
def theta (a : Lanes) : Lanes :=
  let d := thetaD (thetaC a)
  ofLanes fun x y => laneAt a x y ^^^ d[x]

/-- The ρ rotation offsets `RHO[5*y + x]` (R263). -/
def rhoOffsets : Vector Nat 25 :=
  #v[0, 1, 62, 28, 27, 36, 44, 6, 55, 20, 3, 10, 43, 25, 39, 41, 45, 15, 21, 8, 18, 2, 61, 56, 14]

/-- ρ by the table: `rho(A)[i] = rotl_64(A[i], RHO[i])` (R263, which lets a model use the table or the walk). -/
def rho (a : Lanes) : Lanes := Vector.ofFn fun i : Fin 25 => rotl a[i] rhoOffsets[i]

/-- The lane (x, y) that step t of ρ's walk writes: (1, 0) first, then (x, y) becomes (y, (2x + 3y) mod 5) (R262). -/
def rhoPosition : Nat → Fin 5 × Fin 5
  | 0 => (1, 0)
  | t + 1 => ((rhoPosition t).2, 2 * (rhoPosition t).1 + 3 * (rhoPosition t).2)

/-- The linear index 5y + x of the lane that step t of the walk writes. -/
def rhoIndex (t : Nat) : Fin 25 := ⟨5 * (rhoPosition t).2.val + (rhoPosition t).1.val, by omega⟩

/-- The first n steps of ρ's walk over the lanes; lane (0, 0) is unrotated, and the walk writes every other one (R262). -/
def rhoWalkUpTo (a : Lanes) : Nat → Lanes
  | 0 => a
  | n + 1 => (rhoWalkUpTo a n).set (rhoIndex n) (rotl a[rhoIndex n] ((n + 1) * (n + 2) / 2 % 64))

/-- ρ by the walk, t = 0..23 (R262). -/
def rhoWalk (a : Lanes) : Lanes := rhoWalkUpTo a 24

/-- π: `A'[5*y + x] = A[5*x + ((x + 3*y) mod 5)]` (R264), in coordinates `A'[x,y] = A[(x + 3y) mod 5, x]`. -/
def pi (a : Lanes) : Lanes := ofLanes fun x y => laneAt a (x + 3 * y) x

/-- χ, every operand a lane of its input (R266). -/
def chi (a : Lanes) : Lanes :=
  ofLanes fun x y => laneAt a x y ^^^ (~~~laneAt a (x + 1) y &&& laneAt a (x + 2) y)

/-- One step of the round-constant bit generator on R[0..7], R[0] at bit 0: R is shifted up by one and R[8], the bit shifted
out, is XORed into R[0], R[4], R[5] and R[6] (R267). -/
def rcStep (r : Byte) : Byte := if r.getLsbD 7 then (r <<< 1) ^^^ 0x71 else r <<< 1

/-- R after n steps of the generator from `R = [1,0,0,0,0,0,0,0]` (R267). -/
def rcRegister : Nat → Byte
  | 0 => 1
  | n + 1 => rcStep (rcRegister n)

/-- The bit `rc(t)` (R267). -/
def rcBit (t : Nat) : Bool := (rcRegister (t % 255)).getLsbD 0

/-- `RC(ir)` by the generator: bit `2^j - 1` is `rc(j + 7*ir)` for j in 0..6, every other bit 0 (R267). -/
def rcGenerated (ir : Fin 24) : Lane :=
  (List.range 7).foldl (fun acc j => acc ||| (BitVec.ofBool (rcBit (j + 7 * ir.val))).setWidth 64 <<< (2 ^ j - 1)) 0

/-- The twelve rows of the table of R268: row r holds RC(r) and RC(r + 12), the table's two columns. -/
def roundConstantRows : Vector (Lane × Lane) 12 :=
  #v[
    (0x0000000000000001, 0x000000008000808B),
    (0x0000000000008082, 0x800000000000008B),
    (0x800000000000808A, 0x8000000000008089),
    (0x8000000080008000, 0x8000000000008003),
    (0x000000000000808B, 0x8000000000008002),
    (0x0000000080000001, 0x8000000000000080),
    (0x8000000080008081, 0x000000000000800A),
    (0x8000000000008009, 0x800000008000000A),
    (0x000000000000008A, 0x8000000080008081),
    (0x0000000000000088, 0x8000000000008080),
    (0x0000000080008009, 0x0000000080000001),
    (0x000000008000000A, 0x8000000080008008)]

/-- The 24 round constants: the left column of the table, then the right one (R268, which lets a model use the table or the
generator). -/
def roundConstants : Vector Lane 24 := roundConstantRows.map (·.1) ++ roundConstantRows.map (·.2)

/-- ι: RC(ir) XORed into lane (0,0) only (R269). -/
def iota (a : Lanes) (ir : Fin 24) : Lanes := a.set 0 (a[0] ^^^ roundConstants[ir])

/-- One round: θ, ρ, π, χ, ι in that order (R260, R270). -/
def keccakRound (a : Lanes) (ir : Fin 24) : Lanes := iota (chi (pi (rho (theta a)))) ir

/-- Rounds 0, 1, ..., n-1, in that order (R284). -/
def keccakRounds (a : Lanes) : (n : Nat) → n ≤ 24 → Lanes
  | 0, _ => a
  | n + 1, hn => keccakRound (keccakRounds a n (by omega)) ⟨n, hn⟩

/-- The permutation Keccak-f[1600]: all 24 rounds, ir = 0..23 (R284). -/
def keccakF (a : Lanes) : Lanes := keccakRounds a 24 (Nat.le_refl 24)

/-- Lanes 0..16 XORed with the 17 lanes of a block, lanes 17..24 unchanged (R287, R293). -/
def xorBlock (a : Lanes) (kb : Vector Lane 17) : Lanes :=
  Vector.ofFn fun i : Fin 25 => if hi : i.val < 17 then a[i] ^^^ kb[i.val] else a[i]

/-- The absorb step on a block held as 17 lanes (R287, R293). -/
def absorbLanes (a : Lanes) (kb : Vector Lane 17) : Lanes := keccakF (xorBlock a kb)

/-- SHA3_PAD's bytes: bytes 0..N-1 kept, byte N = 0x06, the rest 0x00, and then bit 7 of byte 135 set (R290). -/
def sha3PadByte (kb : Vector Lane 17) (n : Nat) (p : Fin 136) : Byte :=
  let b : Byte := if p.val < n then kbByte kb p else if p.val = n then 0x06 else 0x00
  if p.val = 135 then b ||| 0x80 else b

/-- The KB that SHA3_PAD N leaves (R290). -/
def sha3PadBlock (kb : Vector Lane 17) (n : Nat) : Vector Lane 17 := kbOfBytes (sha3PadByte kb n)

end Sys2Proof.Machine
end

