-- ==== Sys2Proof/Syntax.lean ====
section
/-! DEFINITION. The abstract syntax: one constructor per row of spec/opcode_table.json (30_encoding.md R124). -/

namespace Sys2Proof

/-- The eight commands of 30_encoding.md R124. `n` is the byte count N of format N (R121, R122), the only operand. -/
inductive Instr where
  /-- SHA1_INIT, `sha1.init` (41_sha1.md R220). -/
  | sha1Init
  /-- SHA1_COMPRESS, `sha1.compress` (41_sha1.md R224). -/
  | sha1Compress
  /-- SHA1_PAD N, `sha1.pad N` (41_sha1.md R222). -/
  | sha1Pad (n : Byte)
  /-- SHA1_PADLEN, `sha1.padlen` (41_sha1.md R225). -/
  | sha1Padlen
  /-- KECCAK_CLEAR, `keccak.clear` (42_sha3_keccak.md R291). -/
  | keccakClear
  /-- KECCAK_PERMUTE, `keccak.permute` (42_sha3_keccak.md R292). -/
  | keccakPermute
  /-- KECCAK_ABSORB, `keccak.absorb` (42_sha3_keccak.md R293). -/
  | keccakAbsorb
  /-- SHA3_PAD N, `sha3.pad N` (42_sha3_keccak.md R290). -/
  | sha3Pad (n : Byte)
  deriving DecidableEq, Repr

end Sys2Proof
end

