-- ==== Sys2Proof/WellFormed.lean ====
section
/-! DEFINITION. Which terms of `Instr` are commands of the hardware: the operand ranges of 30_encoding.md R126. -/

namespace Sys2Proof

/-- The operand ranges: SHA1_PAD takes N in 0..63, SHA3_PAD takes N in 0..135; no other command has an operand
(30_encoding.md R126). -/
def Instr.wellFormed : Instr → Bool
  | .sha1Init => true
  | .sha1Compress => true
  | .sha1Pad n => decide (n.toNat ≤ 63)
  | .sha1Padlen => true
  | .keccakClear => true
  | .keccakPermute => true
  | .keccakAbsorb => true
  | .sha3Pad n => decide (n.toNat ≤ 135)

/-- `Instr.wellFormed` as a decidable proposition. -/
abbrev Instr.WellFormed (i : Instr) : Prop := i.wellFormed = true

end Sys2Proof
end

