-- ==== Sys2Proof/Decode.lean ====
section
/-! DEFINITION. The decoder of command words, total on every 32-bit word (30_encoding.md R120 to R130), and after it the
encoder, written from the same tables. A word is one of the eight commands or `Illegal(code)` (R129). -/

namespace Sys2Proof

/-- OPC, bits 7:0 of a command word (R120). -/
def cmdOpc (c : Word) : Byte := c.extractLsb' 0 8

/-- N, bits 15:8 of a command word (R120, R122). -/
def cmdN (c : Word) : Byte := c.extractLsb' 8 8

/-- RSV, bits 31:16 of a command word (R120). -/
def cmdRsv (c : Word) : BitVec 16 := c.extractLsb' 16 16

/-- The opcode map (R124): the command an OPC selects, given the word's N; `none` for every other OPC. -/
def commandOf (opc n : Byte) : Option Instr :=
  if opc = 0x01#8 then some .sha1Init
  else if opc = 0x02#8 then some .sha1Compress
  else if opc = 0x03#8 then some (.sha1Pad n)
  else if opc = 0x04#8 then some .sha1Padlen
  else if opc = 0x10#8 then some .keccakClear
  else if opc = 0x11#8 then some .keccakPermute
  else if opc = 0x12#8 then some .keccakAbsorb
  else if opc = 0x13#8 then some (.sha3Pad n)
  else none

/-- Whether the command has format Z: no operand, so N must be 0 (R121, R124). -/
def Instr.isFormatZ : Instr → Bool
  | .sha1Pad _ => false
  | .sha3Pad _ => false
  | .sha1Init => true
  | .sha1Compress => true
  | .sha1Padlen => true
  | .keccakClear => true
  | .keccakPermute => true
  | .keccakAbsorb => true

/-- Legality of a command word: the checks of R128 in their order, the first failing one giving the error code. -/
def decode (c : Word) : Except ErrCode Instr :=
  match commandOf (cmdOpc c) (cmdN c) with
  | none => .error .illegalOpcode
  | some i =>
    if cmdRsv c ≠ 0#16 then .error .reservedBits
    else if i.isFormatZ = true ∧ cmdN c ≠ 0#8 then .error .reservedBits
    else if i.wellFormed = true then .ok i
    else .error .badCount

/-- `zext_32(N << 8 | OPC)`, the word of format N (R121). -/
def formatNWord (n opc : Byte) : Word := (n.setWidth 32 <<< 8) ||| opc.setWidth 32

/-- The word of a command (R121, R124, R125). -/
def encode : Instr → Word
  | .sha1Init => 0x00000001#32
  | .sha1Compress => 0x00000002#32
  | .sha1Pad n => formatNWord n 0x03#8
  | .sha1Padlen => 0x00000004#32
  | .keccakClear => 0x00000010#32
  | .keccakPermute => 0x00000011#32
  | .keccakAbsorb => 0x00000012#32
  | .sha3Pad n => formatNWord n 0x13#8

/-- The rows (match, mask) of the encoding table, in its order (R125). -/
def encodingRows : List (Word × Word) :=
  [ (0x00000001#32, 0xFFFFFFFF#32), (0x00000002#32, 0xFFFFFFFF#32), (0x00000003#32, 0xFFFF00FF#32), (0x00000004#32, 0xFFFFFFFF#32),
    (0x00000010#32, 0xFFFFFFFF#32), (0x00000011#32, 0xFFFFFFFF#32), (0x00000012#32, 0xFFFFFFFF#32), (0x00000013#32, 0xFFFF00FF#32) ]

/-- The command word an opcode-table row of `nbits` bits stands for: every bit above `nbits` is 0. A command is one
32-bit bus word, so there is no byte order to lay out (R120, 20_memory.md R87). -/
def tableWord (nbits w : Nat) : Word := BitVec.ofNat 32 (w % 2 ^ nbits)

/-- The instruction this decoder reads from an opcode-table word; `none` where it refuses. No command is longer than one
32-bit word (R130). -/
def decodeTableWord (nbits w : Nat) : Option Instr :=
  if 32 < nbits then none
  else
    match decode (tableWord nbits w) with
    | .ok i => some i
    | .error _ => none

end Sys2Proof
end

