-- ==== Sys2Proof/Machine/Flags.lean ====
section
/-! DEFINITION. The flags: the STATUS and IRQ_EN words as read (20_memory.md R85), BUSY, the error codes, the interrupt
output (60_exceptions.md R330, R340), and the only flag a command computes, XBLK (10_state.md R38). -/

namespace Sys2Proof.Machine

/-- STATUS.BUSY: 1 exactly when PEND holds a command (10_state.md R35). -/
def State.busy (s : State) : Bool := s.PEND.isSome

/-- The code of an error cause, as recorded in ERRCODE (60_exceptions.md R330). -/
def errBits : ErrCode → BitVec 4
  | .illegalOpcode => 1
  | .reservedBits => 2
  | .badCount => 3
  | .busy => 4

/-- What a read of STATUS returns: `zext_32(ERRCODE << 8 | XBLK << 3 | ERR << 2 | DONE << 1 | BUSY)`, every other bit 0
(10_state.md R34, R51; 20_memory.md R85). -/
def State.statusWord (s : State) : Word :=
  (s.ERRCODE.setWidth 32 <<< 8) ||| ((BitVec.ofBool s.XBLK).setWidth 32 <<< 3)
    ||| ((BitVec.ofBool s.ERR).setWidth 32 <<< 2) ||| ((BitVec.ofBool s.DONE).setWidth 32 <<< 1)
    ||| (BitVec.ofBool s.busy).setWidth 32

/-- What a read of IRQ_EN returns: `zext_32(ERR_IE << 2 | DONE_IE << 1)`, every other bit 0 (10_state.md R41, R51;
20_memory.md R85). -/
def State.irqEnWord (s : State) : Word :=
  ((BitVec.ofBool s.ERR_IE).setWidth 32 <<< 2) ||| ((BitVec.ofBool s.DONE_IE).setWidth 32 <<< 1)

/-- The interrupt output, a level and a function of the state (10_state.md R61, 60_exceptions.md R340). -/
def State.irq (s : State) : Bool := (s.DONE && s.DONE_IE) || (s.ERR && s.ERR_IE)

/-- The value SHA1_PAD gives XBLK: 1 when its byte count is 56 or more (10_state.md R38, 41_sha1.md R222). -/
def xblkOf (n : Byte) : Bool := decide (56 ≤ n.toNat)

end Sys2Proof.Machine
end

