-- ==== Sys2Proof/Machine/Regs.lean ====
section
/-! DEFINITION. The register map of 10_state.md R50: the registers by name, the offset of each, and the address decode. -/

namespace Sys2Proof.Machine

/-- The 32-bit registers of the window (10_state.md R50); `Lo` is bits 31:0 and `Hi` bits 63:32 of a 64-bit register. -/
inductive Reg where
  | id
  | status
  | cmd
  | irqEn
  | lenLo
  | lenHi
  | h (i : Fin 5)
  | mb (k : Fin 16)
  | sLo (i : Fin 25)
  | sHi (i : Fin 25)
  | kbLo (j : Fin 17)
  | kbHi (j : Fin 17)
  deriving DecidableEq, Repr

/-- The data registers (10_state.md R49); the other four are the control registers. -/
def Reg.isData : Reg → Bool
  | .id => false
  | .status => false
  | .cmd => false
  | .irqEn => false
  | .lenLo => true
  | .lenHi => true
  | .h _ => true
  | .mb _ => true
  | .sLo _ => true
  | .sHi _ => true
  | .kbLo _ => true
  | .kbHi _ => true

/-- The byte offset of a register in the window (10_state.md R50). -/
def Reg.offset : Reg → Offset
  | .id => 0x000
  | .status => 0x004
  | .cmd => 0x008
  | .irqEn => 0x00C
  | .lenLo => 0x010
  | .lenHi => 0x014
  | .h i => BitVec.ofNat 10 (0x020 + 4 * i.val)
  | .mb k => BitVec.ofNat 10 (0x040 + 4 * k.val)
  | .sLo i => BitVec.ofNat 10 (0x100 + 8 * i.val)
  | .sHi i => BitVec.ofNat 10 (0x104 + 8 * i.val)
  | .kbLo j => BitVec.ofNat 10 (0x200 + 8 * j.val)
  | .kbHi j => BitVec.ofNat 10 (0x204 + 8 * j.val)

/-- The register at the aligned offset `4 * q` of the window; `none` where the map has no row (10_state.md R50,
20_memory.md R84). -/
def regAtWord (q : Nat) : Option Reg :=
  if q = 0 then some .id
  else if q = 1 then some .status
  else if q = 2 then some .cmd
  else if q = 3 then some .irqEn
  else if q = 4 then some .lenLo
  else if q = 5 then some .lenHi
  else if hq : 8 ≤ q ∧ q < 13 then some (.h ⟨q - 8, by omega⟩)
  else if hq : 16 ≤ q ∧ q < 32 then some (.mb ⟨q - 16, by omega⟩)
  else if hq : 64 ≤ q ∧ q < 114 then
    if q % 2 = 0 then some (.sLo ⟨(q - 64) / 2, by omega⟩) else some (.sHi ⟨(q - 64) / 2, by omega⟩)
  else if hq : 128 ≤ q ∧ q < 162 then
    if q % 2 = 0 then some (.kbLo ⟨(q - 128) / 2, by omega⟩) else some (.kbHi ⟨(q - 128) / 2, by omega⟩)
  else none

/-- The address decode: the register at an offset; `none` for a misaligned (20_memory.md R83) or unmapped (R84) offset. -/
def regAt (off : Offset) : Option Reg :=
  if off.toNat % 4 = 0 then regAtWord (off.toNat / 4) else none

end Sys2Proof.Machine
end

