-- ==== Sys2Proof/Machine/Ops.lean ====
section
/-! DEFINITION. The operations the instructions and the bus share: registers, error recording and its clearing, the
command lifecycle, and the host transactions (20_memory.md R85, R86). The core has no memory; every access is to a register
of the window. -/

namespace Sys2Proof.Machine

/-- The outcome of a meaning or a step. -/
abbrev Result := Host.Outcome State Fault Refusal

/-! ## Errors: the analogue of taking an exception and of returning from it -/

/-- `raise Error(code)`, the ONE way an error is taken: the first error is recorded, a further one changes nothing while
ERR = 1 (60_exceptions.md R333, R334). The write that raises it has no other effect. -/
def State.raiseError (code : ErrCode) (s : State) : State :=
  if s.ERR then s else { s with ERR := true, ERRCODE := errBits code }

/-- A write to STATUS, the analogue of the return: bit 1 clears DONE, bit 2 clears ERR and ERRCODE, every other bit is
ignored (20_memory.md R86, 60_exceptions.md R339). -/
def State.writeStatus (v : Word) (s : State) : State :=
  { s with
    DONE := if v.getLsbD 1 then false else s.DONE
    ERR := if v.getLsbD 2 then false else s.ERR
    ERRCODE := if v.getLsbD 2 then 0 else s.ERRCODE }

/-! ## The command lifecycle (10_state.md R44) -/

/-- Step 1, acceptance: `PEND <- c`, BUSY <- 1, DONE <- 0, and nothing else. -/
def State.accept (c : Word) (s : State) : State := { s with PEND := some c, DONE := false }

/-- The end of step 2, completion: `PEND <- empty`, BUSY <- 0, DONE <- 1. -/
def State.complete (s : State) : State := { s with PEND := none, DONE := true }

/-- A host write of word c to CMD (60_exceptions.md R331). -/
def State.offerCommand (c : Word) (s : State) : State :=
  if s.busy then s.raiseError .busy
  else
    match decode c with
    | .error code => s.raiseError code
    | .ok _ => s.accept c

/-- What PEND asks the engine to run: nothing, a command, or an illegal word (which PEND never holds, R44). -/
def State.pending (s : State) : Option (Except ErrCode Instr) := s.PEND.map decode

/-! ## Registers -/

/-- The value of a register, exact: what a read returns when it is not a data register read while busy
(20_memory.md R85). -/
def State.readReg (s : State) : Reg → Word
  | .id => idValue
  | .status => s.statusWord
  | .cmd => 0
  | .irqEn => s.irqEnWord
  | .lenLo => loHalf s.LEN
  | .lenHi => hiHalf s.LEN
  | .h i => s.H[i]
  | .mb k => s.MB[k]
  | .sLo i => loHalf s.S[i]
  | .sHi i => hiHalf s.S[i]
  | .kbLo j => loHalf s.KB[j]
  | .kbHi j => hiHalf s.KB[j]

/-- `r <- v` for a data register, the 32-bit half or word it names (20_memory.md R86); the control registers are not
written here. -/
def State.setData (r : Reg) (v : Word) (s : State) : State :=
  match r with
  | .id => s
  | .status => s
  | .cmd => s
  | .irqEn => s
  | .lenLo => { s with LEN := setLoHalf s.LEN v }
  | .lenHi => { s with LEN := setHiHalf s.LEN v }
  | .h i => { s with H := s.H.set i v }
  | .mb k => { s with MB := s.MB.set k v }
  | .sLo i => { s with S := s.S.set i (setLoHalf s.S[i] v) }
  | .sHi i => { s with S := s.S.set i (setHiHalf s.S[i] v) }
  | .kbLo j => { s with KB := s.KB.set j (setLoHalf s.KB[j] v) }
  | .kbHi j => { s with KB := s.KB.set j (setHiHalf s.KB[j] v) }

/-- `IRQ_EN.DONE_IE <- v[1]; IRQ_EN.ERR_IE <- v[2]`, other bits ignored (20_memory.md R86). -/
def State.writeIrqEn (v : Word) (s : State) : State := { s with DONE_IE := v.getLsbD 1, ERR_IE := v.getLsbD 2 }

/-- What a performed 32-bit write of v to a register does (20_memory.md R86): ID ignores it (10_state.md R33), a data
register written while busy raises BUSY and drops it (70_reset_and_hazards.md R380). -/
def State.writeReg (r : Reg) (v : Word) (s : State) : State :=
  match r with
  | .id => s
  | .status => s.writeStatus v
  | .cmd => s.offerCommand v
  | .irqEn => s.writeIrqEn v
  | .lenLo | .lenHi | .h _ | .mb _ | .sLo _ | .sHi _ | .kbLo _ | .kbHi _ =>
    if s.busy then s.raiseError .busy else s.setData r v

/-! ## Host transactions (20_memory.md R81) -/

/-- The register a transaction reaches: `none` gives `BusError`, for a size other than 32 bits (R82), a misaligned offset
(R83) or an unmapped one (R84). -/
def busTarget (size : BusSize) (off : Offset) : Option Reg := if size = .bits32 then regAt off else none

/-- The bus response of a transaction. -/
def State.respond (r : Reply) (s : State) : State := { s with reply := some r }

/-- `BusRead(off)` (R85): no effect on any register. A data register read while busy returns a free value
(70_reset_and_hazards.md R381; log entry 3). -/
def State.hostRead (size : BusSize) (off : Offset) (s : State) : State :=
  match busTarget size off with
  | none => s.respond .busError
  | some r =>
    if s.busy && r.isData then { s.respond (.data (Config.anyU32 s.draws)) with draws := s.draws + 1 }
    else s.respond (.data (s.readReg r))

/-- `BusWrite(off, v)` (R86): `Ok` even when it raises a core error; `BusError` changes no state and records no error
(R81, 60_exceptions.md R336). -/
def State.hostWrite (size : BusSize) (off : Offset) (v : Word) (s : State) : State :=
  match busTarget size off with
  | none => s.respond .busError
  | some r => (s.writeReg r v).respond .ok

/-- The reset input (70_reset_and_hazards.md R370): every piece of the core's state takes its reset value. What the
environment has laid out and the count of free values are not the core's, so they stay (log entry 11). -/
def State.applyReset (s : State) : State := { State.reset with inbox := s.inbox, draws := s.draws }

/-! ## The window in the host's address space (20_memory.md R80) -/

/-- `CORE_BASE + off`, the host address of an offset. -/
def hostAddress (off : Offset) : Nat := Config.coreBase + off.toNat

/-- The offset a host address falls on; `none` outside the window: the core reaches no other address. -/
def offsetOfAddress (addr : Nat) : Option Offset :=
  if Config.coreBase ≤ addr ∧ addr < Config.coreBase + 0x400 then some (BitVec.ofNat 10 (addr - Config.coreBase))
  else none

end Sys2Proof.Machine
end

