-- ==== Sys2Proof/Machine/Keccak.lean ====
section
/-! DEFINITION. The meanings of the four Keccak commands (42_sha3_keccak.md section 3): the effect at the completion step,
then the end of the lifecycle (10_state.md R44). -/

namespace Sys2Proof.Machine

/-- KECCAK_CLEAR (R291): every lane of S zeroed. -/
def execKeccakClear (s : State) : Result := .next { s with S := Vector.replicate 25 0 }.complete

/-- KECCAK_PERMUTE (R292): `S <- keccak_f1600(S)`. -/
def execKeccakPermute (s : State) : Result := .next { s with S := keccakF s.S }.complete

/-- KECCAK_ABSORB (R293): KB XORed into lanes 0..16 of S, then the permutation. -/
def execKeccakAbsorb (s : State) : Result := .next { s with S := absorbLanes s.S s.KB }.complete

/-- SHA3_PAD N (R290). A term with N > 135 is no command: it raises BAD_COUNT, as the word does at its CMD write
(30_encoding.md R128), and has no other effect (log entry 7). -/
def execSha3Pad (n : Byte) (s : State) : Result :=
  if n.toNat ≤ 135 then .next { s with KB := sha3PadBlock s.KB n.toNat }.complete
  else .next (s.raiseError .badCount)

end Sys2Proof.Machine
end

