-- ==== Sys2Proof/Machine/Sha1Functions.lean ====
section
/-! DEFINITION. The functions of the SHA-1 unit (41_sha1.md section 1). The round number is a `Fin 80`, so the source's
"invalid call" with t outside [0, 80) cannot be written (R203, 93_implementation_defined.md I3). The working registers, the
schedule and the round counter are hidden state that has no value outside a command (10_state.md R60), so they are local to
these functions. -/

namespace Sys2Proof.Machine

/-- The round function f(t, B, C, D): Ch, Parity, Maj, Parity over the four 20-round bands (R201). -/
def sha1F (t : Fin 80) (b c d : Word) : Word :=
  if t.val ≤ 19 then (b &&& c) ||| (~~~b &&& d)
  else if t.val ≤ 39 then b ^^^ c ^^^ d
  else if t.val ≤ 59 then (b &&& c) ||| (b &&& d) ||| (c &&& d)
  else b ^^^ c ^^^ d

/-- The round constant K(t) (R202). -/
def sha1K (t : Fin 80) : Word :=
  if t.val ≤ 19 then 0x5A827999
  else if t.val ≤ 39 then 0x6ED9EBA1
  else if t.val ≤ 59 then 0x8F1BBCDC
  else 0xCA62C1D6

/-- The first `16 + n` words of the message schedule: word `t = 16 + n` is
`rotl_32(W[t-3] ^ W[t-8] ^ W[t-14] ^ W[t-16], 1)` (R205). -/
def scheduleUpTo (m : Vector Word 16) : (n : Nat) → Vector Word (16 + n)
  | 0 => m
  | n + 1 =>
    (scheduleUpTo m n).push
      (rotl ((scheduleUpTo m n)[13 + n] ^^^ (scheduleUpTo m n)[8 + n] ^^^ (scheduleUpTo m n)[2 + n]
        ^^^ (scheduleUpTo m n)[n]) 1)

/-- The message schedule W[0..79] of a block M[0..15] (R205). -/
def schedule (m : Vector Word 16) : Vector Word 80 := scheduleUpTo m 64

/-- The working registers A..E (10_state.md R60). -/
structure Work where
  a : Word
  b : Word
  c : Word
  d : Word
  e : Word
  deriving DecidableEq, Repr

/-- One round: all five new values are computed from the old ones; `w` is W[t] (R210). -/
def sha1Round (t : Fin 80) (w : Word) (r : Work) : Work where
  a := rotl r.a 5 + sha1F t r.b r.c r.d + r.e + w + sha1K t
  b := r.a
  c := rotl r.b 30
  d := r.c
  e := r.d

/-- The working registers after rounds 0, 1, ..., n-1, in that order (R211). -/
def sha1Rounds (w : Vector Word 80) (r : Work) : (n : Nat) → n ≤ 80 → Work
  | 0, _ => r
  | n + 1, hn => sha1Round ⟨n, hn⟩ w[n] (sha1Rounds w r n (by omega))

/-- The working registers before round 0: the chaining values (R211). -/
def sha1Seed (h : Vector Word 5) : Work := ⟨h[0], h[1], h[2], h[3], h[4]⟩

/-- The working registers after all 80 rounds on block m from chaining values h (R211, R212). -/
def sha1Work (h : Vector Word 5) (m : Vector Word 16) : Work :=
  sha1Rounds (schedule m) (sha1Seed h) 80 (Nat.le_refl 80)

/-- The compression function: `H_i + register_i (mod 2^32)` after 80 rounds (R212). -/
def sha1Compress (h : Vector Word 5) (m : Vector Word 16) : Vector Word 5 :=
  let r := sha1Work h m
  #v[h[0] + r.a, h[1] + r.b, h[2] + r.c, h[3] + r.d, h[4] + r.e]

/-- SHA1_PAD's bytes before any length is written: bytes 0..N-1 kept, byte N = 0x80, the rest 0x00 (R222). -/
def sha1PadByte (mb : Vector Word 16) (n : Nat) (p : Fin 64) : Byte :=
  if p.val < n then mbByte mb p else if p.val = n then 0x80 else 0x00

/-- `MB[14] <- LEN[63:32]; MB[15] <- LEN[31:0]` (R222, R225). -/
def putLength (len : Lane) (mb : Vector Word 16) : Vector Word 16 := (mb.set 14 (hiHalf len)).set 15 (loHalf len)

/-- The MB that SHA1_PAD N leaves: with the length for N ≤ 55, without it for N ≥ 56 (R222). -/
def sha1PadBlock (len : Lane) (mb : Vector Word 16) (n : Nat) : Vector Word 16 :=
  if n ≤ 55 then putLength len (mbOfBytes (sha1PadByte mb n)) else mbOfBytes (sha1PadByte mb n)

/-- The MB that SHA1_PADLEN leaves: fourteen zero words and the length (R225). -/
def sha1LengthBlock (len : Lane) : Vector Word 16 := putLength len (Vector.replicate 16 0)

end Sys2Proof.Machine
end

