-- ==== Sys2Proof/Machine/Sha1.lean ====
section
/-! DEFINITION. The meanings of the four SHA-1 commands (41_sha1.md section 2): the effect at the completion step, then the end
of the lifecycle (10_state.md R44). -/

namespace Sys2Proof.Machine

/-- SHA1_INIT (R220): `H <- IV`, XBLK cleared. -/
def execSha1Init (s : State) : Result := .next { s with H := sha1IV, XBLK := false }.complete

/-- SHA1_COMPRESS (R224): `H <- sha1_compress(H, MB)`. -/
def execSha1Compress (s : State) : Result := .next { s with H := sha1Compress s.H s.MB }.complete

/-- SHA1_PAD N (R222). A term with N > 63 is no command: it raises BAD_COUNT, as the word does at its CMD write (30_encoding.md
R128), and has no other effect (log entry 7). -/
def execSha1Pad (n : Byte) (s : State) : Result :=
  if n.toNat ≤ 63 then
    .next { s with MB := sha1PadBlock s.LEN s.MB n.toNat, XBLK := xblkOf n }.complete
  else .next (s.raiseError .badCount)

/-- SHA1_PADLEN (R225): the length-only block, XBLK cleared. -/
def execSha1Padlen (s : State) : Result := .next { s with MB := sha1LengthBlock s.LEN, XBLK := false }.complete

end Sys2Proof.Machine
end

