-- ==== Sys2Proof/Machine/Dispatch.lean ====
section
/-! DEFINITION. The dispatch: one arm per command, each a direct call of its meaning (30_encoding.md R124). -/

namespace Sys2Proof.Machine

def exec (i : Instr) (s : State) : Host.Outcome State Fault Refusal :=
  match i with
  | .sha1Init => Sys2Proof.Machine.execSha1Init s
  | .sha1Compress => Sys2Proof.Machine.execSha1Compress s
  | .sha1Pad n => Sys2Proof.Machine.execSha1Pad n s
  | .sha1Padlen => Sys2Proof.Machine.execSha1Padlen s
  | .keccakClear => Sys2Proof.Machine.execKeccakClear s
  | .keccakPermute => Sys2Proof.Machine.execKeccakPermute s
  | .keccakAbsorb => Sys2Proof.Machine.execKeccakAbsorb s
  | .sha3Pad n => Sys2Proof.Machine.execSha3Pad n s

end Sys2Proof.Machine
end

