-- ==== Sys2Proof/Machine/Step.lean ====
section
/-! DEFINITION. One step of the total order of steps (20_memory.md R93): the next one the environment has laid out in
`inbox`, or, when it has laid out none, the engine's, which a pending command is sure to get (70_reset_and_hazards.md R390).
Every schedule of host transactions, completions and resets is some `inbox` (10_state.md R44; log entry 2). -/

namespace Sys2Proof.Machine

/-- The engine's step: the completion of the command in PEND, enabled only while there is one (10_state.md R30, R44 step 2). -/
def engineStep (s : State) : Host.Outcome State Fault Refusal :=
  match s.pending with
  | none => .next s
  | some (.ok i) => exec i s
  | some (.error code) => .fault (.pendIllegal code)

/-- One step. -/
def step (s : State) : Host.Outcome State Fault Refusal :=
  match s.inbox with
  | [] => engineStep s
  | .read size off :: rest => .next ({ s with inbox := rest }.hostRead size off)
  | .write size off v :: rest => .next ({ s with inbox := rest }.hostWrite size off v)
  | .complete :: rest => engineStep { s with inbox := rest }
  | .reset :: rest => .next { s with inbox := rest }.applyReset

/-- `s` with a command word accepted into PEND and the next step the engine's, so that the very next step runs it. An empty
inbox already gives the engine the next step (log entry 5). -/
def State.withFetchWord (s : State) (nbits w : Nat) : State :=
  { s with
    PEND := some (tableWord nbits w)
    inbox := match s.inbox with
      | [] => []
      | e :: rest => .complete :: e :: rest }

end Sys2Proof.Machine
end

