-- ==== Sys2Proof/Machine/Reference.lean ====
section
/-! DEFINITION. The reference functions the commands must reproduce (00_scope.md R5) and the read-outs: whole-message padding,
the digests, and the digest bytes of H and S. They are host-side: no command calls them. -/

namespace Sys2Proof.Machine

/-- The first `n` blocks of `k` bytes of a byte string. -/
def blocksOf (k : Nat) : (n : Nat) → List Byte → List (List Byte)
  | 0, _ => []
  | n + 1, m => m.take k :: blocksOf k n (m.drop k)

/-! ## SHA-1 -/

/-- The number of zero bytes of the padding: the least k with `(|m| + 1 + k) mod 64 = 56` (41_sha1.md R213). -/
def sha1ZeroCount (len : Nat) : Nat := (119 - len % 64) % 64

/-- `sha1_pad(m) = m || [0x80] || [0x00] * k || BE64(L)` with `L = 8 * |m|`, for `L < 2^64` (R213). Past that precondition the
spec gives the function no value (93_implementation_defined.md I1); that this definition then writes L modulo 2^64 is the
model's choice, and no statement speaks of such a message (log entry 23). -/
def sha1Pad (m : List Byte) : List Byte :=
  m ++ [0x80] ++ List.replicate (sha1ZeroCount m.length) 0x00 ++ bytesBE64 (BitVec.ofNat 64 (8 * m.length))

/-- The chaining values after compressing blocks in order (R232). -/
def sha1Chain (h : Vector Word 5) (bs : List (List Byte)) : Vector Word 5 :=
  bs.foldl (fun h b => sha1Compress h (mbOfList b)) h

/-- The digest string of chaining values: five words in hex, H[0] first (R231). -/
def sha1Hex (h : Vector Word 5) : List Char := h.toList.flatMap hexEncode

/-- The 20 digest bytes of H: five big-endian words (R230). -/
def sha1DigestBytes (h : Vector Word 5) : List Byte := h.toList.flatMap bytesBE32

/-- The chaining values `sha1_digest` ends with (R232). -/
def sha1DigestWords (m : List Byte) : Vector Word 5 :=
  sha1Chain sha1IV (blocksOf 64 ((sha1Pad m).length / 64) (sha1Pad m))

/-- `sha1_digest(m)` (R232), for `8|m| < 2^64`; past that as `sha1Pad` (log entry 23). -/
def sha1Digest (m : List Byte) : List Char := sha1Hex (sha1DigestWords m)

/-! ## SHA-3-256 -/

/-- `sha3_pad(m)`: the suffix `01` and `pad10*1` in standard byte values (42_sha3_keccak.md R286). -/
def sha3Pad (m : List Byte) : List Byte :=
  let q := 136 - m.length % 136
  if q = 1 then m ++ [0x86] else m ++ [0x06] ++ List.replicate (q - 2) 0x00 ++ [0x80]

/-- `absorb(A, b)` for a block of 136 bytes (R287). -/
def absorb (a : Lanes) (b : List Byte) : Lanes := absorbLanes a (kbOfList b)

/-- `squeeze(A)`: the bytes of lanes 0, 1, 2, 3, each lane little-endian (R288, R295). -/
def squeeze (a : Lanes) : List Byte :=
  bytesLE64 a[0] ++ bytesLE64 a[1] ++ bytesLE64 a[2] ++ bytesLE64 a[3]

/-- The lanes `sha3_256_digest` ends with (R296). -/
def sha3Lanes (m : List Byte) : Lanes :=
  (blocksOf 136 ((sha3Pad m).length / 136) (sha3Pad m)).foldl absorb (Vector.replicate 25 0)

/-- `sha3_256_digest(m)`: two hex characters a byte, high nibble first (R295, R296). -/
def sha3Digest (m : List Byte) : List Char := (squeeze (sha3Lanes m)).flatMap hexEncode

end Sys2Proof.Machine
end

