-- ==== Sys2Proof/Safety.lean ====
section
/-! DEFINITION. What counts as a safe state and a safe run, in the terms the statements use. -/

namespace Sys2Proof

open Sys2Proof.Machine

/-- The registers a command writes, besides STATUS, by the "writes" column of 30_encoding.md R124. -/
def Instr.writes (i : Instr) (r : Reg) : Bool :=
  match i, r with
  | .sha1Init, .h _ => true
  | .sha1Compress, .h _ => true
  | .sha1Pad _, .mb _ => true
  | .sha1Padlen, .mb _ => true
  | .keccakClear, .sLo _ => true
  | .keccakClear, .sHi _ => true
  | .keccakPermute, .sLo _ => true
  | .keccakPermute, .sHi _ => true
  | .keccakAbsorb, .sLo _ => true
  | .keccakAbsorb, .sHi _ => true
  | .sha3Pad _, .kbLo _ => true
  | .sha3Pad _, .kbHi _ => true
  | _, _ => false

/-- The commands that write XBLK (10_state.md R38, 30_encoding.md R124). -/
def Instr.writesXblk : Instr → Bool
  | .sha1Init => true
  | .sha1Pad _ => true
  | .sha1Padlen => true
  | .sha1Compress => false
  | .keccakClear => false
  | .keccakPermute => false
  | .keccakAbsorb => false
  | .sha3Pad _ => false

end Sys2Proof

namespace Sys2Proof.Machine

/-- Relations between the fields that every state of the hardware meets: PEND holds a legal command or nothing (10_state.md
R43, R44); DONE is 0 while a command is pending (R36); ERRCODE is 0 exactly while ERR is 0 and never above 4 (R37, R39,
60_exceptions.md R330). -/
structure State.Inv (s : State) : Prop where
  pendLegal : ∀ c, s.PEND = some c → ∃ i, decode c = .ok i
  doneWhenIdle : s.busy = true → s.DONE = false
  errcodeRecorded : s.ERR = true ↔ s.ERRCODE ≠ 0
  errcodeRange : s.ERRCODE.toNat ≤ 4

/-- Whether the event is a host transaction (20_memory.md R81). -/
def Event.isHost : Event → Bool
  | .read _ _ => true
  | .write _ _ _ => true
  | .complete => false
  | .reset => false

/-- The state after every step of a list of steps laid out in the inbox has been taken, if none stops the machine. -/
def runInbox (s : State) (es : List Event) : Host.Outcome State Fault Refusal :=
  Host.Core.run Sys2Proof.core es.length ({ s with inbox := es } : State)

/-- A run of a list of steps that the hazards of 70_reset_and_hazards.md R380, R381 did not touch: it ends in a next state with
no error recorded (92_eei_decisions.md D9). -/
def SafeRun (s : State) (es : List Event) : Prop := ∃ t, runInbox s es = .next t ∧ t.ERR = false

end Sys2Proof.Machine
end

