-- ==== Sys2Proof/Certificates/Slice0/Obligations.lean ====
section
/-! DEFINITION. The statements for the provers, one `def Obligations.<Name> : Prop` each; OBLIGATIONS.json lists them. The
witnesses that their hypotheses can be met are in Sys2Proof/Tests/Slice0.lean. -/

open Sys2Proof Sys2Proof.Machine

/-! ## Command encoding (spec/30_encoding.md) -/

/-- Sanity: the words of the encoding table, written out bit by bit, decode to the commands they stand for (R124, R125). -/
def Obligations.WrittenOutWordsDecode : Prop :=
  decode 0b00000000000000000000000000000001#32 = .ok .sha1Init ∧
  decode 0b00000000000000000000000000000010#32 = .ok .sha1Compress ∧
  decode 0b00000000000000000011111100000011#32 = .ok (.sha1Pad 63) ∧
  decode 0b00000000000000000000000000000100#32 = .ok .sha1Padlen ∧
  decode 0b00000000000000000000000000010000#32 = .ok .keccakClear ∧
  decode 0b00000000000000000000000000010001#32 = .ok .keccakPermute ∧
  decode 0b00000000000000000000000000010010#32 = .ok .keccakAbsorb ∧
  decode 0b00000000000000001000011100010011#32 = .ok (.sha3Pad 135)

/-- Decode and encode agree in both directions, for every word and every command: a word decodes to a command exactly when the
command is well-formed and the word is its encoding. -/
def Obligations.DecodeOkIffWordIsEncoding : Prop :=
  ∀ (c : Word) (i : Instr), decode c = .ok i ↔ i.WellFormed ∧ encode i = c

/-- R125: a word matches a row when `c & mask = match`; it is legal when also its N is in range. -/
def Obligations.LegalWordsAreTheTableRowsInRange : Prop :=
  ∀ c : Word, (∃ i, decode c = .ok i) ↔
    ∃ row ∈ [((0x00000001 : Word), (0xFFFFFFFF : Word)), (0x00000002, 0xFFFFFFFF), (0x00000003, 0xFFFF00FF),
        (0x00000004, 0xFFFFFFFF), (0x00000010, 0xFFFFFFFF), (0x00000011, 0xFFFFFFFF), (0x00000012, 0xFFFFFFFF),
        (0x00000013, 0xFFFF00FF)],
      c &&& row.2 = row.1 ∧ (row.1 = 0x00000003 → c.toNat / 256 % 256 ≤ 63) ∧
        (row.1 = 0x00000013 → c.toNat / 256 % 256 ≤ 135)

/-- R128: the checks in their order on `opc = c[7:0]`, `n = c[15:8]`, `rsv = c[31:16]`, the first failing one giving the code,
and a word that passes every check being its command. -/
def Obligations.DecodeChecksInTheOrderOfR128 : Prop :=
  ∀ (c : Word) (opc n rsv : Nat), opc = c.toNat % 256 → n = c.toNat / 256 % 256 → rsv = c.toNat / 65536 →
    (opc ∉ [0x01, 0x02, 0x03, 0x04, 0x10, 0x11, 0x12, 0x13] → decode c = .error .illegalOpcode) ∧
    (opc ∈ [0x01, 0x02, 0x03, 0x04, 0x10, 0x11, 0x12, 0x13] → rsv ≠ 0 → decode c = .error .reservedBits) ∧
    (opc ∈ [0x01, 0x02, 0x04, 0x10, 0x11, 0x12] → rsv = 0 → n ≠ 0 → decode c = .error .reservedBits) ∧
    (opc = 0x03 → rsv = 0 → n > 63 → decode c = .error .badCount) ∧
    (opc = 0x13 → rsv = 0 → n > 135 → decode c = .error .badCount) ∧
    (opc = 0x01 → rsv = 0 → n = 0 → decode c = .ok .sha1Init) ∧
    (opc = 0x02 → rsv = 0 → n = 0 → decode c = .ok .sha1Compress) ∧
    (opc = 0x03 → rsv = 0 → n ≤ 63 → decode c = .ok (.sha1Pad (BitVec.ofNat 8 n))) ∧
    (opc = 0x04 → rsv = 0 → n = 0 → decode c = .ok .sha1Padlen) ∧
    (opc = 0x10 → rsv = 0 → n = 0 → decode c = .ok .keccakClear) ∧
    (opc = 0x11 → rsv = 0 → n = 0 → decode c = .ok .keccakPermute) ∧
    (opc = 0x12 → rsv = 0 → n = 0 → decode c = .ok .keccakAbsorb) ∧
    (opc = 0x13 → rsv = 0 → n ≤ 135 → decode c = .ok (.sha3Pad (BitVec.ofNat 8 n)))

/-! ## The lifecycle of a command (spec/10_state.md R44, spec/60_exceptions.md) -/

/-- A step runs the decoded command: when PEND holds a word that decodes to `i` and the next step is the engine's (it is laid
out next, or nothing is laid out), the step is `exec i`, on the state with that entry of the model's `inbox` taken off (log
entry 2). -/
def Obligations.EngineStepRunsThePendingCommand : Prop :=
  ∀ (s : State) (c : Word) (i : Instr), s.PEND = some c → decode c = .ok i →
    (s.inbox = [] → step s = exec i s) ∧
    (∀ rest, s.inbox = .complete :: rest → step s = exec i { s with inbox := rest })

/-- R331: a host write of c to CMD raises BUSY while busy; else raises the decoder's code, or accepts c (R44 step 1). The error
is recorded as R333 says, with the code of R330, and the write is answered `Ok`. -/
def Obligations.CmdWriteRefusesOrAccepts : Prop :=
  ∀ (s : State) (c : Word) (rest : List Event), s.inbox = .write .bits32 0x008 c :: rest →
    (s.busy = true → step s = .next { s with
        inbox := rest, reply := some .ok, ERR := true, ERRCODE := if s.ERR then s.ERRCODE else 4 }) ∧
    (s.busy = false →
      (decode c = .error .illegalOpcode → step s = .next { s with
        inbox := rest, reply := some .ok, ERR := true, ERRCODE := if s.ERR then s.ERRCODE else 1 }) ∧
      (decode c = .error .reservedBits → step s = .next { s with
        inbox := rest, reply := some .ok, ERR := true, ERRCODE := if s.ERR then s.ERRCODE else 2 }) ∧
      (decode c = .error .badCount → step s = .next { s with
        inbox := rest, reply := some .ok, ERR := true, ERRCODE := if s.ERR then s.ERRCODE else 3 }) ∧
      (∀ i, decode c = .ok i → step s = .next { s with
        inbox := rest, reply := some .ok, PEND := some c, DONE := false }))

/-- Every well-formed command completes from every state: PEND is emptied and DONE set (R44 step 2), and no accepted command
raises an error (R330). -/
def Obligations.EveryCommandCompletesWithoutError : Prop :=
  ∀ (i : Instr) (s : State), i.WellFormed →
    ∃ t, exec i s = .next t ∧ t.PEND = none ∧ t.busy = false ∧ t.DONE = true ∧ t.ERR = s.ERR ∧ t.ERRCODE = s.ERRCODE

/-- The frame of all eight commands: besides STATUS, only the registers of the command's "writes" column (R124) may change; XBLK
changes only by the three commands that write it (R38); ERR, ERRCODE and the enables never do; nor do the model's own fields. -/
def Obligations.CommandsChangeOnlyWhatTheyWrite : Prop :=
  ∀ (i : Instr) (s t : State), i.WellFormed → exec i s = .next t →
    (∀ r : Reg, r ≠ .status → i.writes r = false → t.readReg r = s.readReg r) ∧
    (i.writesXblk = false → t.XBLK = s.XBLK) ∧
    t.ERR = s.ERR ∧ t.ERRCODE = s.ERRCODE ∧ t.DONE_IE = s.DONE_IE ∧ t.ERR_IE = s.ERR_IE ∧ t.LEN = s.LEN ∧
    t.inbox = s.inbox ∧ t.reply = s.reply ∧ t.draws = s.draws

/-- The model's choice (log entry 7): `exec` of a term whose N is out of range, which no legal word decodes to, raises BAD_COUNT
and does nothing else. -/
def Obligations.OutOfRangeCountRaisesBadCount : Prop :=
  ∀ (n : Byte) (s : State),
    (63 < n.toNat → exec (.sha1Pad n) s = .next { s with
      ERR := true, ERRCODE := if s.ERR then s.ERRCODE else 3 }) ∧
    (135 < n.toNat → exec (.sha3Pad n) s = .next { s with
      ERR := true, ERRCODE := if s.ERR then s.ERRCODE else 3 })

/-! ## The SHA-1 commands (spec/41_sha1.md) -/

/-- R220, SHA1_INIT: the word 0x00000001, `H <- IV`, XBLK cleared, nothing else changed but by the lifecycle. -/
def Obligations.Sha1InitLoadsTheIV : Prop :=
  decode 0x00000001 = .ok .sha1Init ∧
  ∀ s : State, exec .sha1Init s = .next { s with
    H := #v[0x67452301, 0xEFCDAB89, 0x98BADCFE, 0x10325476, 0xC3D2E1F0]
    XBLK := false
    PEND := none
    DONE := true }

/-- R224 with R212, SHA1_COMPRESS: the word 0x00000002; each chaining value gains its working register after 80 rounds. -/
def Obligations.Sha1CompressAddsTheWorkingRegisters : Prop :=
  decode 0x00000002 = .ok .sha1Compress ∧
  ∀ (s : State) (r : Work), r = sha1Rounds (schedule s.MB) ⟨s.H[0], s.H[1], s.H[2], s.H[3], s.H[4]⟩ 80 (Nat.le_refl 80) →
    exec .sha1Compress s = .next { s with
      H := #v[s.H[0] + r.a, s.H[1] + r.b, s.H[2] + r.c, s.H[3] + r.d, s.H[4] + r.e]
      PEND := none
      DONE := true }

/-- R205: the message schedule. -/
def Obligations.ScheduleExpandsTheBlock : Prop :=
  ∀ m : Vector Word 16,
    (∀ (t : Nat) (_ : t < 16), (schedule m)[t] = m[t]) ∧
    (∀ (t : Nat) (_ : 16 ≤ t) (_ : t < 80), (schedule m)[t] =
      rotl ((schedule m)[t - 3] ^^^ (schedule m)[t - 8] ^^^ (schedule m)[t - 14] ^^^ (schedule m)[t - 16]) 1)

/-- R210 and R211, with f and K of R201 and R202: round 0 starts from the registers given, and round t computes all five new
values from the old ones. -/
def Obligations.RoundsRunInOrder : Prop :=
  ∀ (w : Vector Word 80) (r : Work),
    sha1Rounds w r 0 (Nat.zero_le 80) = r ∧
    ∀ (t : Nat) (ht : t < 80) (p q : Work) (f k : Word),
      p = sha1Rounds w r t (Nat.le_of_lt ht) → q = sha1Rounds w r (t + 1) ht →
      f = (if t ≤ 19 then (p.b &&& p.c) ||| (~~~p.b &&& p.d)
        else if t ≤ 39 then p.b ^^^ p.c ^^^ p.d
        else if t ≤ 59 then (p.b &&& p.c) ||| (p.b &&& p.d) ||| (p.c &&& p.d)
        else p.b ^^^ p.c ^^^ p.d) →
      k = (if t ≤ 19 then 0x5A827999 else if t ≤ 39 then 0x6ED9EBA1 else if t ≤ 59 then 0x8F1BBCDC else 0xCA62C1D6) →
      q.a = rotl p.a 5 + f + p.e + w[t] + k ∧ q.b = p.a ∧ q.c = rotl p.b 30 ∧ q.d = p.c ∧ q.e = p.d

/-- R222, SHA1_PAD N: the word `zext_32(N << 8 | 0x03)`; bytes 0..N-1 kept, byte N = 0x80, zeros after it, and for N ≤ 55 the
length in words 14 and 15; XBLK says whether a length block is still owed; nothing else changes but by the lifecycle. -/
def Obligations.Sha1PadWritesTheFinalBlock : Prop :=
  ∀ (n : Byte) (s : State), n.toNat ≤ 63 →
    decode (n.setWidth 32 <<< 8 ||| 0x03) = .ok (.sha1Pad n) ∧
    ∃ mb : Vector Word 16,
      exec (.sha1Pad n) s = .next { s with
        MB := mb, XBLK := decide (56 ≤ n.toNat), PEND := none, DONE := true } ∧
      (∀ p : Fin 64, p.val < 56 ∨ 56 ≤ n.toNat → mbByte mb p =
        if p.val < n.toNat then mbByte s.MB p else if p.val = n.toNat then 0x80 else 0x00) ∧
      (n.toNat ≤ 55 → mb[14] = s.LEN.extractLsb' 32 32 ∧ mb[15] = s.LEN.extractLsb' 0 32)

/-- R225, SHA1_PADLEN: the word 0x00000004; fourteen zero words and the length, XBLK cleared, nothing else changed but by the
lifecycle. -/
def Obligations.Sha1PadlenWritesTheLengthBlock : Prop :=
  decode 0x00000004 = .ok .sha1Padlen ∧
  ∀ s : State, ∃ mb : Vector Word 16,
    exec .sha1Padlen s = .next { s with MB := mb, XBLK := false, PEND := none, DONE := true } ∧
    (∀ (k : Nat) (_ : k < 14), mb[k] = 0) ∧
    mb[14] = s.LEN.extractLsb' 32 32 ∧ mb[15] = s.LEN.extractLsb' 0 32

/-! ## The Keccak commands and step mappings (spec/42_sha3_keccak.md) -/

/-- R291, KECCAK_CLEAR: the word 0x00000010; every lane of S zeroed, nothing else changed but by the lifecycle. -/
def Obligations.KeccakClearZeroesS : Prop :=
  decode 0x00000010 = .ok .keccakClear ∧
  ∀ s : State, exec .keccakClear s = .next { s with S := Vector.replicate 25 0, PEND := none, DONE := true }

/-- R292, KECCAK_PERMUTE: the word 0x00000011; `S <- keccak_f1600(S)`, nothing else changed but by the lifecycle. -/
def Obligations.KeccakPermutePermutesS : Prop :=
  decode 0x00000011 = .ok .keccakPermute ∧
  ∀ s : State, exec .keccakPermute s = .next { s with S := keccakF s.S, PEND := none, DONE := true }

/-- R293, KECCAK_ABSORB: the word 0x00000012; KB XORed into lanes 0..16, lanes 17..24 unchanged, then the permutation; with
KB = 0 it is KECCAK_PERMUTE. -/
def Obligations.KeccakAbsorbXorsThenPermutes : Prop :=
  decode 0x00000012 = .ok .keccakAbsorb ∧
  ∀ s : State,
    (∃ a : Lanes,
      (∀ (j : Nat) (_ : j < 17), a[j] = s.S[j] ^^^ s.KB[j]) ∧
      (∀ (j : Nat) (_ : 17 ≤ j) (_ : j < 25), a[j] = s.S[j]) ∧
      exec .keccakAbsorb s = .next { s with S := keccakF a, PEND := none, DONE := true }) ∧
    (s.KB = Vector.replicate 17 0 → exec .keccakAbsorb s = exec .keccakPermute s)

/-- R290, SHA3_PAD N: the word `zext_32(N << 8 | 0x13)`; bytes 0..N-1 kept, byte N = 0x06, zeros after it, and bit 7 of byte 135
set last; nothing else changes but by the lifecycle. -/
def Obligations.Sha3PadWritesTheFinalBlock : Prop :=
  ∀ (n : Byte) (s : State), n.toNat ≤ 135 →
    decode (n.setWidth 32 <<< 8 ||| 0x13) = .ok (.sha3Pad n) ∧
    ∃ kb : Vector Lane 17,
      exec (.sha3Pad n) s = .next { s with KB := kb, PEND := none, DONE := true } ∧
      (∀ p : Fin 136, p.val < 135 → kbByte kb p =
        if p.val < n.toNat then kbByte s.KB p else if p.val = n.toNat then 0x06 else 0x00) ∧
      kbByte kb 135 = if n.toNat = 135 then 0x86 else 0x80

/-- R261, θ: `A'[x,y] = A[x,y] ^ D[x]` with C and D from the input array. -/
def Obligations.ThetaXorsTheColumnParities : Prop :=
  ∀ (a : Lanes) (par d : Nat → Lane),
    (∀ (x : Nat) (_ : x < 5), par x = a[x] ^^^ a[5 + x] ^^^ a[10 + x] ^^^ a[15 + x] ^^^ a[20 + x]) →
    (∀ (x : Nat) (_ : x < 5), d x = par ((x + 4) % 5) ^^^ rotl (par ((x + 1) % 5)) 1) →
    ∀ (x y : Nat) (_ : x < 5) (_ : y < 5), (theta a)[5 * y + x] = a[5 * y + x] ^^^ d x

/-- R262 and R263: the walk over the lanes and the table of offsets are the same ρ. -/
def Obligations.RhoWalkAgreesWithItsTable : Prop := ∀ a : Lanes, rhoWalk a = rho a

/-- R264, π in linear indices. -/
def Obligations.PiMovesTheLanes : Prop :=
  ∀ (a : Lanes) (x y : Nat) (_ : x < 5) (_ : y < 5),
    (Sys2Proof.Machine.pi a)[5 * y + x] = a[5 * x + (x + 3 * y) % 5]

/-- R266, χ, every operand a lane of the input. -/
def Obligations.ChiReadsItsInputOnly : Prop :=
  ∀ (a : Lanes) (x y : Nat) (_ : x < 5) (_ : y < 5),
    (chi a)[5 * y + x] = a[5 * y + x] ^^^ (~~~a[5 * y + (x + 1) % 5] &&& a[5 * y + (x + 2) % 5])

/-- R267 and R268: the generator gives the table of round constants. -/
def Obligations.GeneratorGivesTheRoundConstants : Prop := ∀ ir : Fin 24, rcGenerated ir = roundConstants[ir]

/-- R269, R270 and R284: ι touches lane (0,0) only, with RC(ir); a round is θ, ρ, π, χ, ι in that order; the permutation is rounds
0 to 23 in order. -/
def Obligations.KeccakRunsTwentyFourRounds : Prop :=
  (∀ (a : Lanes) (ir : Fin 24), (iota a ir)[0] = a[0] ^^^ rcGenerated ir ∧
    ∀ (j : Nat) (_ : 0 < j) (_ : j < 25), (iota a ir)[j] = a[j]) ∧
  (∀ (a : Lanes) (ir : Fin 24), keccakRound a ir = iota (chi (Sys2Proof.Machine.pi (rho (theta a)))) ir) ∧
  (∀ a : Lanes, keccakF a = (List.finRange 24).foldl keccakRound a)

/-- R287: KECCAK_ABSORB is `absorb(S, b)` with b the 136 bytes of KB in the byte view of R48. -/
def Obligations.KeccakAbsorbAbsorbsTheBytesOfKB : Prop :=
  ∀ s : State, exec .keccakAbsorb s = .next { s with
    S := absorb s.S (List.ofFn fun p : Fin 136 => kbByte s.KB p), PEND := none, DONE := true }

/-! ## Registers and the bus (spec/10_state.md, spec/20_memory.md) -/

/-- R50: the registers stand at the offsets of the map, and the address decode finds at an offset the register that stands there and
no other. -/
def Obligations.RegisterMapIsExact : Prop :=
  (∀ (off : Offset) (r : Reg), regAt off = some r ↔ r.offset = off) ∧
  Reg.id.offset.toNat = 0x000 ∧ Reg.status.offset.toNat = 0x004 ∧ Reg.cmd.offset.toNat = 0x008 ∧
  Reg.irqEn.offset.toNat = 0x00C ∧ Reg.lenLo.offset.toNat = 0x010 ∧ Reg.lenHi.offset.toNat = 0x014 ∧
  (∀ i : Fin 5, (Reg.h i).offset.toNat = 0x020 + 4 * i.val) ∧
  (∀ k : Fin 16, (Reg.mb k).offset.toNat = 0x040 + 4 * k.val) ∧
  (∀ i : Fin 25, (Reg.sLo i).offset.toNat = 0x100 + 8 * i.val ∧ (Reg.sHi i).offset.toNat = 0x104 + 8 * i.val) ∧
  (∀ j : Fin 17, (Reg.kbLo j).offset.toNat = 0x200 + 8 * j.val ∧ (Reg.kbHi j).offset.toNat = 0x204 + 8 * j.val)

/-- R82, R83 and R84: a transaction of another size, at a misaligned offset or in one of the unmapped ranges returns `BusError`,
changes no state of the core and records no error. -/
def Obligations.BusErrorsChangeNothing : Prop :=
  ∀ (s : State) (size : BusSize) (off : Offset) (v : Word) (rest : List Event) (o : Nat), o = off.toNat →
    (size ≠ .bits32 ∨ o % 4 ≠ 0 ∨ (0x018 ≤ o ∧ o ≤ 0x01F) ∨ (0x034 ≤ o ∧ o ≤ 0x03F) ∨ (0x080 ≤ o ∧ o ≤ 0x0FF) ∨
      (0x1C8 ≤ o ∧ o ≤ 0x1FF) ∨ (0x288 ≤ o ∧ o ≤ 0x3FF)) →
    s.inbox = .read size off :: rest ∨ s.inbox = .write size off v :: rest →
    step s = .next { s with inbox := rest, reply := some .busError }

/-- R85: a read that is not of a data register while busy returns the register's value and has no effect on any register; the
values, register by register, are R85's right-hand sides. -/
def Obligations.ReadsReturnTheRegister : Prop :=
  (∀ (s : State) (r : Reg) (rest : List Event), s.busy = false ∨ r.isData = false →
    s.inbox = .read .bits32 r.offset :: rest →
    step s = .next { s with inbox := rest, reply := some (.data (s.readReg r)) }) ∧
  ∀ s : State,
    s.readReg .id = 0x47564831 ∧ s.readReg .cmd = 0 ∧
    s.readReg .status = (s.ERRCODE.setWidth 32 <<< 8) ||| (if s.XBLK then 0x8 else 0) ||| (if s.ERR then 0x4 else 0)
      ||| (if s.DONE then 0x2 else 0) ||| (if s.PEND.isSome then 0x1 else 0) ∧
    s.readReg .irqEn = (if s.ERR_IE then 0x4 else 0) ||| (if s.DONE_IE then 0x2 else 0) ∧
    s.readReg .lenLo = s.LEN.extractLsb' 0 32 ∧ s.readReg .lenHi = s.LEN.extractLsb' 32 32 ∧
    (∀ i : Fin 5, s.readReg (.h i) = s.H[i]) ∧
    (∀ k : Fin 16, s.readReg (.mb k) = s.MB[k]) ∧
    (∀ i : Fin 25, s.readReg (.sLo i) = s.S[i].extractLsb' 0 32 ∧ s.readReg (.sHi i) = s.S[i].extractLsb' 32 32) ∧
    (∀ j : Fin 17, s.readReg (.kbLo j) = s.KB[j].extractLsb' 0 32 ∧ s.readReg (.kbHi j) = s.KB[j].extractLsb' 32 32)

/-- R381: a read of a data register while busy returns some word and has no effect on any register; ID, STATUS, CMD and IRQ_EN read
exactly at all times. -/
def Obligations.BusyDataReadsAreUnspecified : Prop :=
  ∀ (s : State) (r : Reg) (rest : List Event), s.busy = true → s.inbox = .read .bits32 r.offset :: rest →
    (r.isData = true → ∃ v n, step s = .next { s with inbox := rest, reply := some (.data v), draws := n }) ∧
    (r = .id → step s = .next { s with inbox := rest, reply := some (.data 0x47564831) }) ∧
    (r = .status → step s = .next { s with inbox := rest, reply := some (.data s.statusWord) }) ∧
    (r = .cmd → step s = .next { s with inbox := rest, reply := some (.data 0) }) ∧
    (r = .irqEn → step s = .next { s with inbox := rest, reply := some (.data s.irqEnWord) })

/-- R34 and R51: the bits of a read of STATUS. -/
def Obligations.StatusReadsItsFields : Prop :=
  ∀ (s : State) (k : Nat), (s.readReg .status).getLsbD k =
    if k = 0 then s.PEND.isSome
    else if k = 1 then s.DONE
    else if k = 2 then s.ERR
    else if k = 3 then s.XBLK
    else if 8 ≤ k ∧ k ≤ 11 then s.ERRCODE.getLsbD (k - 8)
    else false

/-- R86 (STATUS): bit 1 clears DONE, bit 2 clears ERR and ERRCODE, busy or not; every other bit is ignored, and with bits 1 and 2
zero nothing changes. The interrupt output falls in the same step when both are cleared (R340). -/
def Obligations.StatusWritesClearDoneAndErr : Prop :=
  ∀ (s : State) (v : Word) (rest : List Event), s.inbox = .write .bits32 0x004 v :: rest →
    ∃ t, step s = .next t ∧
      t = { s with
        inbox := rest
        reply := some .ok
        DONE := s.DONE && !v.getLsbD 1
        ERR := s.ERR && !v.getLsbD 2
        ERRCODE := if v.getLsbD 2 then 0 else s.ERRCODE } ∧
      (v.getLsbD 1 = true → v.getLsbD 2 = true → t.irq = false)

/-- R41: a write to IRQ_EN sets DONE_IE from bit 1 and ERR_IE from bit 2, busy or not; all other bits read as 0 and ignore writes;
both enables reset to 0. -/
def Obligations.IrqEnHoldsTwoEnables : Prop :=
  (∀ (s : State) (v : Word) (rest : List Event), s.inbox = .write .bits32 0x00C v :: rest →
    ∃ t, step s = .next t ∧
      t = { s with inbox := rest, reply := some .ok, DONE_IE := v.getLsbD 1, ERR_IE := v.getLsbD 2 } ∧
      t.readReg .irqEn = v &&& 0x00000006) ∧
  State.reset.readReg .irqEn = 0

/-- R33: every read of ID returns 0x47564831, and a write is ignored and reports no error, busy or not. -/
def Obligations.IdIsConstant : Prop :=
  ∀ (s : State) (v : Word) (rest : List Event),
    (s.inbox = .read .bits32 0x000 :: rest →
      step s = .next { s with inbox := rest, reply := some (.data 0x47564831) }) ∧
    (s.inbox = .write .bits32 0x000 v :: rest → step s = .next { s with inbox := rest, reply := some .ok })

/-- R49 and R86: while idle, a write to a data register is read back as written, every other register of the window reads as
before (the other half of a lane too), and no flag changes. -/
def Obligations.IdleDataWritesChangeOneRegister : Prop :=
  ∀ (s : State) (r : Reg) (v : Word) (rest : List Event), s.busy = false → r.isData = true →
    s.inbox = .write .bits32 r.offset v :: rest →
    ∃ t, step s = .next t ∧ t.readReg r = v ∧ (∀ r' : Reg, r' ≠ r → t.readReg r' = s.readReg r') ∧
      t.PEND = none ∧ t.DONE = s.DONE ∧ t.ERR = s.ERR ∧ t.ERRCODE = s.ERRCODE ∧ t.XBLK = s.XBLK ∧
      t.DONE_IE = s.DONE_IE ∧ t.ERR_IE = s.ERR_IE ∧ t.inbox = rest ∧ t.reply = some .ok ∧ t.draws = s.draws

/-- R380: while busy, a write to CMD or to a data register is discarded and raises BUSY; writes to STATUS, IRQ_EN and ID behave as
when idle. -/
def Obligations.BusyWritesAreDiscarded : Prop :=
  ∀ (s : State) (r : Reg) (v : Word) (rest : List Event), s.busy = true → s.inbox = .write .bits32 r.offset v :: rest →
    (r = .cmd ∨ r.isData = true → step s = .next { s with
      inbox := rest, reply := some .ok, ERR := true, ERRCODE := if s.ERR then s.ERRCODE else 4 }) ∧
    (r = .status → step s = .next { s with
      inbox := rest
      reply := some .ok
      DONE := s.DONE && !v.getLsbD 1
      ERR := s.ERR && !v.getLsbD 2
      ERRCODE := if v.getLsbD 2 then 0 else s.ERRCODE }) ∧
    (r = .irqEn → step s = .next { s with
      inbox := rest, reply := some .ok, DONE_IE := v.getLsbD 1, ERR_IE := v.getLsbD 2 }) ∧
    (r = .id → step s = .next { s with inbox := rest, reply := some .ok })

/-- R61 and R340: the interrupt output is 1 exactly when an enabled source is pending. -/
def Obligations.IrqIsTheEnabledPendingLevel : Prop :=
  ∀ s : State, s.irq = true ↔ (s.DONE = true ∧ s.DONE_IE = true) ∨ (s.ERR = true ∧ s.ERR_IE = true)

/-! ## Reset (spec/10_state.md R52, spec/70_reset_and_hazards.md R370) -/

/-- R52: the reset value of every piece of the spec's state, read through the window. -/
def Obligations.ResetValuesAreTheTable : Prop :=
  State.reset.readReg .id = 0x47564831 ∧
  State.reset.busy = false ∧ State.reset.DONE = false ∧ State.reset.ERR = false ∧ State.reset.XBLK = false ∧
  State.reset.ERRCODE = 0 ∧ State.reset.DONE_IE = false ∧ State.reset.ERR_IE = false ∧ State.reset.LEN = 0 ∧
  State.reset.H = #v[0x67452301, 0xEFCDAB89, 0x98BADCFE, 0x10325476, 0xC3D2E1F0] ∧
  State.reset.MB = Vector.replicate 16 0 ∧ State.reset.S = Vector.replicate 25 0 ∧
  State.reset.KB = Vector.replicate 17 0 ∧ State.reset.PEND = none ∧ State.reset.irq = false

/-- R370: the reset input, from any state, abandons a pending command and sets every piece of the core's state to its reset value;
what the environment has laid out and the count of free values stay (the model's choice, log entry 11). -/
def Obligations.ResetInputResetsEveryState : Prop :=
  ∀ (s : State) (rest : List Event), s.inbox = .reset :: rest →
    step s = .next { State.reset with inbox := rest, draws := s.draws }

/-! ## Rules about the whole machine -/

/-- The reset state meets the invariant `State.Inv`: its PEND is empty and its ERR and ERRCODE are 0. -/
def Obligations.InvariantHoldsAtReset : Prop := State.reset.Inv

/-- Every step keeps the invariant: PEND holds a legal command or nothing, DONE is 0 while busy, ERRCODE is a code of R330 and 0
exactly while ERR is 0. -/
def Obligations.EveryStepKeepsTheInvariant : Prop := ∀ s t : State, s.Inv → step s = .next t → t.Inv

/-- From a state that meets the invariant the machine never stops: no fault, no refusal. -/
def Obligations.EveryStepAnswersANextState : Prop := ∀ s : State, s.Inv → ∃ t, step s = .next t

/-- While a command is pending, no run of host transactions stops the machine or changes an operand of the command, XBLK or PEND
(R44, R380). -/
def Obligations.HostCannotTouchAPendingCommand : Prop :=
  ∀ (s : State) (es : List Event), s.busy = true → (∀ e ∈ es, e.isHost = true) →
    ∃ t, runInbox s es = .next t ∧ t.LEN = s.LEN ∧ t.H = s.H ∧ t.MB = s.MB ∧ t.S = s.S ∧ t.KB = s.KB ∧
      t.XBLK = s.XBLK ∧ t.PEND = s.PEND

/-- R44: between the acceptance of a command and its completion there may be any number of host steps, and the effect is the same
whether it is evaluated at acceptance or at completion. -/
def Obligations.CompletionMayComeAfterAnyHostSteps : Prop :=
  ∀ (s : State) (c : Word) (i : Instr) (es : List Event), s.busy = false → decode c = .ok i →
    (∀ e ∈ es, e.isHost = true) →
    ∃ t u, runInbox s (.write .bits32 0x008 c :: (es ++ [.complete])) = .next t ∧ exec i s = .next u ∧
      t.LEN = u.LEN ∧ t.H = u.H ∧ t.MB = u.MB ∧ t.S = u.S ∧ t.KB = u.KB ∧ t.XBLK = u.XBLK ∧
      t.PEND = none ∧ t.DONE = true

/-- R36: only the completion of a pending command sets DONE. -/
def Obligations.OnlyCompletionSetsDone : Prop :=
  ∀ s t : State, step s = .next t → s.DONE = false → t.DONE = true →
    s.busy = true ∧ t.busy = false ∧ (s.inbox = [] ∨ ∃ rest, s.inbox = .complete :: rest)

/-- R38 and R42: XBLK changes only in the engine's step of one of the three commands that write it, or by reset, and by no host
write; LEN only by a host write while idle, or by reset, never by a command. -/
def Obligations.XblkAndLenHaveFewWriters : Prop :=
  ∀ s t : State, step s = .next t → (∀ rest, s.inbox ≠ .reset :: rest) →
    (t.XBLK ≠ s.XBLK → (s.inbox = [] ∨ ∃ rest, s.inbox = .complete :: rest) ∧
      ∃ c i, s.PEND = some c ∧ decode c = .ok i ∧ (i = .sha1Init ∨ (∃ n, i = .sha1Pad n) ∨ i = .sha1Padlen)) ∧
    (t.LEN ≠ s.LEN → s.busy = false ∧ ∃ v rest,
      s.inbox = .write .bits32 0x010 v :: rest ∨ s.inbox = .write .bits32 0x014 v :: rest)

/-! ## Primitives (spec/40_bit_utilities.md) -/

/-- R161, R162: bit i of `rotl_w(v, n)` is bit `(i - n) mod w` of v, and of `rotr_w(v, n)` bit `(i + n) mod w`, for every n. -/
def Obligations.RotationsMoveBitsModuloTheWidth : Prop :=
  ∀ (w : Nat) (v : BitVec w) (n i : Nat), i < w →
    (rotl v n).getLsbD i = v.getLsbD ((i + (w - n % w)) % w) ∧ (rotr v n).getLsbD i = v.getLsbD ((i + n) % w)

/-- R163 to R166: with i in [0, w), get_bit reads bit i from the end the indexing names, set_bit sets exactly that bit and toggle_bit
inverts exactly that bit; with i outside, each refuses. -/
def Obligations.BitAccessTouchesTheIndexedBit : Prop :=
  ∀ (w : Nat) (v : BitVec w) (i : Nat),
    (i < w →
      getBitLE v i = some (v.getLsbD i) ∧ getBitBE v i = some (v.getLsbD (w - 1 - i)) ∧
      (∃ u, setBitLE v i = some u ∧ ∀ k < w, u.getLsbD k = if k = i then true else v.getLsbD k) ∧
      (∃ u, setBitBE v i = some u ∧ ∀ k < w, u.getLsbD k = if k = w - 1 - i then true else v.getLsbD k) ∧
      (∃ u, toggleBitLE v i = some u ∧ ∀ k < w, u.getLsbD k = if k = i then !v.getLsbD k else v.getLsbD k) ∧
      (∃ u, toggleBitBE v i = some u ∧
        ∀ k < w, u.getLsbD k = if k = w - 1 - i then !v.getLsbD k else v.getLsbD k)) ∧
    (w ≤ i → getBitLE v i = none ∧ getBitBE v i = none ∧ setBitLE v i = none ∧ setBitBE v i = none ∧
      toggleBitLE v i = none ∧ toggleBitBE v i = none)

/-- R167 to R169: what the three reversals do, bit by bit and byte by byte, for every width (of whole bytes for the last two);
R174: the laws of the rotation and of the reversals, for words and lanes. -/
def Obligations.RotationAndReversalLaws : Prop :=
  (∀ (w : Nat) (v : BitVec w) (i : Nat), i < w → (reverseBits v).getLsbD i = v.getLsbD (w - 1 - i)) ∧
  (∀ (w : Nat) (v : BitVec w) (k q : Nat), w % 8 = 0 → k < w / 8 → q < 8 →
    (reverseBitsWithinBytes v).getLsbD (8 * k + q) = v.getLsbD (8 * k + (7 - q)) ∧
    (reverseByteOrder v).getLsbD (8 * k + q) = v.getLsbD (8 * (w / 8 - 1 - k) + q)) ∧
  (∀ (x : Word) (n : Nat), n < 32 → rotl (rotl x n) (32 - n) = x) ∧
  (∀ (x : Lane) (n : Nat), n < 64 → rotl (rotl x n) (64 - n) = x) ∧
  (∀ x : Word, reverseBits (reverseBits x) = x ∧ reverseBitsWithinBytes (reverseBitsWithinBytes x) = x ∧
    reverseByteOrder (reverseByteOrder x) = x ∧ reverseBits x = reverseByteOrder (reverseBitsWithinBytes x)) ∧
  (∀ x : Lane, reverseBits (reverseBits x) = x ∧ reverseBitsWithinBytes (reverseBitsWithinBytes x) = x ∧
    reverseByteOrder (reverseByteOrder x) = x ∧ reverseBits x = reverseByteOrder (reverseBitsWithinBytes x))

/-- R174: `hex_decode(hex_encode(x)) = x` for words and lanes. -/
def Obligations.HexDecodeUndoesHexEncode : Prop :=
  (∀ x : Word, hexDecode 32 (hexEncode x) = some x) ∧ (∀ x : Lane, hexDecode 64 (hexEncode x) = some x)

/-! ## The reference functions (spec/41_sha1.md R213, R233; spec/42_sha3_keccak.md R286, R297) -/

/-- R230 and R295: the digests as read through the window. SHA-1: the bytes of H0 to H4, each word's most significant byte first.
SHA-3-256: the bytes of the eight words at 0x100 to 0x11C, each word's bits 7:0 first. -/
def Obligations.DigestsReadOutThroughTheWindow : Prop :=
  ∀ (s : State) (be le : Word → List Byte),
    (∀ v, be v = [v.extractLsb' 24 8, v.extractLsb' 16 8, v.extractLsb' 8 8, v.extractLsb' 0 8]) →
    (∀ v, le v = [v.extractLsb' 0 8, v.extractLsb' 8 8, v.extractLsb' 16 8, v.extractLsb' 24 8]) →
    sha1DigestBytes s.H = [Reg.h 0, .h 1, .h 2, .h 3, .h 4].flatMap (fun r => be (s.readReg r)) ∧
    squeeze s.S = [Reg.sLo 0, .sHi 0, .sLo 1, .sHi 1, .sLo 2, .sHi 2, .sLo 3, .sHi 3].flatMap
      (fun r => le (s.readReg r))

/-- R213, for a message that meets its precondition `8 * |m| < 2^64` (93_implementation_defined.md I1: nothing is claimed of
another): the padded message starts with the message and 0x80, has `floor((|m| + 8) / 64) + 1` blocks, its zeros are as few as
can be, and its last eight bytes are those of L, whose value is the bit length, most significant first. -/
def Obligations.Sha1PaddingFillsWholeBlocks : Prop :=
  ∀ m : List Byte, 8 * m.length < 2 ^ 64 →
    (sha1Pad m).length = 64 * ((m.length + 8) / 64 + 1) ∧
    (∃ (k : Nat) (L : Lane), sha1Pad m = m ++ [0x80] ++ List.replicate k 0x00 ++ bytesBE64 L ∧ L.toNat = 8 * m.length ∧
      (m.length + 1 + k) % 64 = 56 ∧ ∀ j, (m.length + 1 + j) % 64 = 56 → k ≤ j)

/-- R286: the padded message has `floor(|m| / 136) + 1` blocks, starts with the message and its pad is 0x86 alone, or 0x06, zeros
and 0x80. -/
def Obligations.Sha3PaddingFillsWholeBlocks : Prop :=
  ∀ m : List Byte,
    (sha3Pad m).length = 136 * (m.length / 136 + 1) ∧
    (m.length % 136 = 135 → sha3Pad m = m ++ [0x86]) ∧
    (m.length % 136 ≠ 135 → ∃ k, sha3Pad m = m ++ [0x06] ++ List.replicate k 0x00 ++ [0x80])

/-- R233, the last commands of the procedure: with H the chain of the message's whole blocks, LEN its bit length and its remaining
n bytes in MB, SHA1_PAD n and SHA1_COMPRESS, and SHA1_PADLEN and SHA1_COMPRESS after them if XBLK is set, leave the digest of
`sha1_digest` in H. -/
def Obligations.Sha1FinalCommandsComputeTheDigest : Prop :=
  ∀ (m : List Byte) (s : State) (n : Nat), 8 * m.length < 2 ^ 64 → n = m.length % 64 →
    s.LEN = BitVec.ofNat 64 (8 * m.length) →
    s.H = sha1Chain sha1IV (blocksOf 64 (m.length / 64) m) →
    (∀ p : Fin 64, p.val < n → mbByte s.MB p = m.getD (64 * (m.length / 64) + p.val) 0) →
    ∃ s1 s2, exec (.sha1Pad (BitVec.ofNat 8 n)) s = .next s1 ∧ exec .sha1Compress s1 = .next s2 ∧
      (s2.XBLK = false → sha1Hex s2.H = sha1Digest m) ∧
      (s2.XBLK = true → ∃ s3 s4, exec .sha1Padlen s2 = .next s3 ∧ exec .sha1Compress s3 = .next s4 ∧
        sha1Hex s4.H = sha1Digest m)

/-- R297, the last commands of the procedure: with S the absorption of the message's whole blocks and its remaining n bytes in KB,
SHA3_PAD n and KECCAK_ABSORB leave the digest of `sha3_256_digest` in S. -/
def Obligations.Sha3FinalCommandsComputeTheDigest : Prop :=
  ∀ (m : List Byte) (s : State) (n : Nat), n = m.length % 136 →
    s.S = (blocksOf 136 (m.length / 136) m).foldl absorb (Vector.replicate 25 0) →
    (∀ p : Fin 136, p.val < n → kbByte s.KB p = m.getD (136 * (m.length / 136) + p.val) 0) →
    ∃ s1 s2, exec (.sha3Pad (BitVec.ofNat 8 n)) s = .next s1 ∧ exec .keccakAbsorb s1 = .next s2 ∧
      (squeeze s2.S).flatMap hexEncode = sha3Digest m
end

