-- ==== Sys2Proof/Laws/Bits.lean ====
section
/-! SUPPORT. The small lemmas of the bit primitives and byte views: the bits of `ofBits`, the halves of a 64-bit value, and
words and lanes as their bytes. -/

namespace Sys2Proof.Machine

theorem getLsbD_ofBits (w : Nat) (g : Nat → Bool) (k : Nat) : (ofBits w g).getLsbD k = (decide (k < w) && g k) := by
  induction w with
  | zero => simp [ofBits]
  | succ n ih =>
    rw [ofBits, BitVec.getLsbD_cons, ih]
    by_cases hk : k = n
    · simp [hk]
    · rw [if_neg hk]
      by_cases hk' : k < n
      · simp [hk', Nat.lt_succ_of_lt hk']
      · simp [hk', show ¬k < n + 1 by omega]

theorem rotl_eq_rotateLeft {w : Nat} (v : BitVec w) (n : Nat) : rotl v n = v.rotateLeft n := by
  unfold rotl BitVec.rotateLeft BitVec.rotateLeftAux
  split
  · rename_i h
    rw [h, BitVec.shiftLeft_zero, Nat.sub_zero, BitVec.ushiftRight_eq_zero (Nat.le_refl w), BitVec.or_zero]
  · rfl

theorem getLsbD_loHalf (v : Lane) (k : Nat) : (loHalf v).getLsbD k = (decide (k < 32) && v.getLsbD k) := by
  simp [loHalf, BitVec.getLsbD_extractLsb']

theorem getLsbD_hiHalf (v : Lane) (k : Nat) : (hiHalf v).getLsbD k = (decide (k < 32) && v.getLsbD (32 + k)) := by
  simp [hiHalf, BitVec.getLsbD_extractLsb']

theorem getLsbD_setLoHalf (v : Lane) (x : Word) (k : Nat) :
    (setLoHalf v x).getLsbD k = if k < 32 then x.getLsbD k else v.getLsbD k := by
  refine (BitVec.getLsbD_append (x := hiHalf v) (y := x)).trans ?_
  split
  · rfl
  · rename_i h
    rw [getLsbD_hiHalf]
    by_cases hk : k < 64
    · simp [show k - 32 < 32 by omega, show 32 + (k - 32) = k by omega]
    · simp [show ¬k - 32 < 32 by omega, BitVec.getLsbD_of_ge v k (by omega)]

theorem getLsbD_setHiHalf (v : Lane) (x : Word) (k : Nat) :
    (setHiHalf v x).getLsbD k = if k < 32 then v.getLsbD k else x.getLsbD (k - 32) := by
  refine (BitVec.getLsbD_append (x := x) (y := loHalf v)).trans ?_
  split
  · rename_i h
    rw [getLsbD_loHalf, decide_eq_true h, Bool.true_and]
  · rfl

@[simp] theorem loHalf_setLoHalf (v : Lane) (x : Word) : loHalf (setLoHalf v x) = x := by
  apply BitVec.eq_of_getLsbD_eq
  intro k hk
  rw [getLsbD_loHalf, decide_eq_true hk, Bool.true_and, getLsbD_setLoHalf, if_pos hk]

@[simp] theorem hiHalf_setLoHalf (v : Lane) (x : Word) : hiHalf (setLoHalf v x) = hiHalf v := by
  apply BitVec.eq_of_getLsbD_eq
  intro k hk
  rw [getLsbD_hiHalf, getLsbD_setLoHalf, if_neg (by omega), getLsbD_hiHalf]

@[simp] theorem loHalf_setHiHalf (v : Lane) (x : Word) : loHalf (setHiHalf v x) = loHalf v := by
  apply BitVec.eq_of_getLsbD_eq
  intro k hk
  rw [getLsbD_loHalf, getLsbD_setHiHalf, if_pos hk, getLsbD_loHalf]

@[simp] theorem hiHalf_setHiHalf (v : Lane) (x : Word) : hiHalf (setHiHalf v x) = x := by
  apply BitVec.eq_of_getLsbD_eq
  intro k hk
  rw [getLsbD_hiHalf, decide_eq_true hk, Bool.true_and, getLsbD_setHiHalf, if_neg (by omega), Nat.add_sub_cancel_left]

theorem be32_toNat (b0 b1 b2 b3 : Byte) :
    (be32 b0 b1 b2 b3).toNat = b0.toNat * 2 ^ 24 + b1.toNat * 2 ^ 16 + b2.toNat * 2 ^ 8 + b3.toNat := by
  have e {m : Nat} (x : BitVec m) (y : Byte) : (x ++ y).toNat = x.toNat * 2 ^ 8 + y.toNat := by
    rw [BitVec.toNat_append, ← Nat.shiftLeft_add_eq_or_of_lt y.isLt, Nat.shiftLeft_eq]
  unfold be32
  refine (e _ _).trans ?_
  rw [e, e]; ring

theorem le64_toNat (b0 b1 b2 b3 b4 b5 b6 b7 : Byte) :
    (le64 b0 b1 b2 b3 b4 b5 b6 b7).toNat = b0.toNat + b1.toNat * 2 ^ 8 + b2.toNat * 2 ^ 16 + b3.toNat * 2 ^ 24
      + b4.toNat * 2 ^ 32 + b5.toNat * 2 ^ 40 + b6.toNat * 2 ^ 48 + b7.toNat * 2 ^ 56 := by
  have e {m : Nat} (x : BitVec m) (y : Byte) : (x ++ y).toNat = x.toNat * 2 ^ 8 + y.toNat := by
    rw [BitVec.toNat_append, ← Nat.shiftLeft_add_eq_or_of_lt y.isLt, Nat.shiftLeft_eq]
  unfold le64
  refine (e _ _).trans ?_
  rw [e, e, e, e, e, e]; ring

theorem byteOf_toNat {w : Nat} (k : Nat) (v : BitVec w) : (byteOf k v).toNat = v.toNat / 2 ^ (8 * k) % 256 := by
  simp [byteOf, BitVec.extractLsb'_toNat, Nat.shiftRight_eq_div_pow]

/-- A word is made of its four bytes. -/
theorem be32_byteOf (v : Word) : be32 (byteOf 3 v) (byteOf 2 v) (byteOf 1 v) (byteOf 0 v) = v := by
  apply BitVec.eq_of_toNat_eq
  have := v.isLt
  simp only [be32_toNat, byteOf_toNat]
  omega

theorem le64_byteOf (v : Lane) : le64 (byteOf 0 v) (byteOf 1 v) (byteOf 2 v) (byteOf 3 v) (byteOf 4 v) (byteOf 5 v)
    (byteOf 6 v) (byteOf 7 v) = v := by
  apply BitVec.eq_of_toNat_eq
  have := v.isLt
  simp only [le64_toNat, byteOf_toNat]
  omega

theorem byteOf_be32 (b0 b1 b2 b3 : Byte) : byteOf 3 (be32 b0 b1 b2 b3) = b0 ∧ byteOf 2 (be32 b0 b1 b2 b3) = b1 ∧
    byteOf 1 (be32 b0 b1 b2 b3) = b2 ∧ byteOf 0 (be32 b0 b1 b2 b3) = b3 := by
  have := b0.isLt; have := b1.isLt; have := b2.isLt; have := b3.isLt
  refine ⟨?_, ?_, ?_, ?_⟩ <;> apply BitVec.eq_of_toNat_eq <;> simp only [be32_toNat, byteOf_toNat] <;> omega

theorem byteOf_le64 (b0 b1 b2 b3 b4 b5 b6 b7 : Byte) :
    byteOf 0 (le64 b0 b1 b2 b3 b4 b5 b6 b7) = b0 ∧ byteOf 1 (le64 b0 b1 b2 b3 b4 b5 b6 b7) = b1 ∧
    byteOf 2 (le64 b0 b1 b2 b3 b4 b5 b6 b7) = b2 ∧ byteOf 3 (le64 b0 b1 b2 b3 b4 b5 b6 b7) = b3 ∧
    byteOf 4 (le64 b0 b1 b2 b3 b4 b5 b6 b7) = b4 ∧ byteOf 5 (le64 b0 b1 b2 b3 b4 b5 b6 b7) = b5 ∧
    byteOf 6 (le64 b0 b1 b2 b3 b4 b5 b6 b7) = b6 ∧ byteOf 7 (le64 b0 b1 b2 b3 b4 b5 b6 b7) = b7 := by
  have := b0.isLt; have := b1.isLt; have := b2.isLt; have := b3.isLt
  have := b4.isLt; have := b5.isLt; have := b6.isLt; have := b7.isLt
  refine ⟨?_, ?_, ?_, ?_, ?_, ?_, ?_, ?_⟩ <;> apply BitVec.eq_of_toNat_eq <;>
    simp only [le64_toNat, byteOf_toNat] <;> omega

end Sys2Proof.Machine
end

