-- ==== Sys2Proof/Laws/Decode.lean ====
section
/-! SUPPORT. The fields of a command word and of an encoding, and what selects a command. -/

namespace Sys2Proof

theorem cmdOpc_toNat (c : Word) : (cmdOpc c).toNat = c.toNat % 256 := by
  simp [cmdOpc, BitVec.extractLsb'_toNat]

theorem cmdN_toNat (c : Word) : (cmdN c).toNat = c.toNat / 256 % 256 := by
  simp [cmdN, BitVec.extractLsb'_toNat, Nat.shiftRight_eq_div_pow]

theorem cmdRsv_toNat (c : Word) : (cmdRsv c).toNat = c.toNat / 65536 := by
  simp [cmdRsv, BitVec.extractLsb'_toNat, Nat.shiftRight_eq_div_pow]
  have := c.isLt; omega

/-- The fields make up the word. -/
theorem word_of_fields (c : Word) : cmdRsv c ++ cmdN c ++ cmdOpc c = c := by
  ext i hi
  simp only [cmdRsv, cmdN, cmdOpc, BitVec.getElem_append, BitVec.getElem_extractLsb']
  split
  · simp [BitVec.getLsbD_eq_getElem hi]
  · split
    · simp only [← BitVec.getLsbD_eq_getElem]; congr 1; omega
    · simp only [← BitVec.getLsbD_eq_getElem]; congr 1; omega

theorem formatNWord_toNat (n opc : Byte) : (formatNWord n opc).toNat = n.toNat * 256 + opc.toNat := by
  have hn := n.isLt
  have ho := opc.isLt
  rw [formatNWord, BitVec.toNat_or, BitVec.toNat_shiftLeft, BitVec.toNat_setWidth, BitVec.toNat_setWidth,
    Nat.mod_eq_of_lt (a := n.toNat) (by omega), Nat.mod_eq_of_lt (a := opc.toNat) (by omega), Nat.shiftLeft_eq,
    Nat.mod_eq_of_lt (by omega), ← Nat.shiftLeft_eq, ← Nat.shiftLeft_add_eq_or_of_lt ho, Nat.shiftLeft_eq]

theorem formatNWord_fields (n opc : Byte) :
    cmdOpc (formatNWord n opc) = opc ∧ cmdN (formatNWord n opc) = n ∧ cmdRsv (formatNWord n opc) = 0 := by
  have hn := n.isLt
  have ho := opc.isLt
  refine ⟨BitVec.eq_of_toNat_eq ?_, BitVec.eq_of_toNat_eq ?_, BitVec.eq_of_toNat_eq ?_⟩ <;>
    simp [cmdOpc_toNat, cmdN_toNat, cmdRsv_toNat, formatNWord_toNat] <;> omega

theorem fields_inj {c d : Word} (h1 : cmdOpc c = cmdOpc d) (h2 : cmdN c = cmdN d) (h3 : cmdRsv c = cmdRsv d) : c = d := by
  rw [← word_of_fields c, ← word_of_fields d, h1, h2, h3]

/-- The fields of a command's encoding: RSV is 0, N is the operand or 0, and OPC selects the command (R121). -/
theorem encode_fields (i : Instr) : cmdRsv (encode i) = 0 ∧ (i.isFormatZ = true → cmdN (encode i) = 0) ∧
    commandOf (cmdOpc (encode i)) (cmdN (encode i)) = some i := by
  cases i with
  | sha1Pad n => obtain ⟨h1, h2, h3⟩ := formatNWord_fields n 0x03#8; simp [encode, h1, h2, h3, Instr.isFormatZ, commandOf]
  | sha3Pad n => obtain ⟨h1, h2, h3⟩ := formatNWord_fields n 0x13#8; simp [encode, h1, h2, h3, Instr.isFormatZ, commandOf]
  | _ => decide

/-- What selects a command: its OPC, and its N for format N. -/
theorem commandOf_eq_some {opc n : Byte} {i : Instr} (h : commandOf opc n = some i) :
    opc = cmdOpc (encode i) ∧ (i.isFormatZ = false → n = cmdN (encode i)) := by
  unfold commandOf at h
  have h3 := formatNWord_fields n 0x03#8
  have h13 := formatNWord_fields n 0x13#8
  repeat' split at h
  all_goals cases h
  all_goals simp_all [encode, Instr.isFormatZ, cmdOpc]

end Sys2Proof
end

