-- ==== Sys2Proof/Laws/State.lean ====
section
/-! SUPPORT. One lemma per field and named update of State, so that no later proof unfolds a record update. -/

namespace Sys2Proof.Machine

variable (s : State)

/-! ### accept -/

@[simp] theorem State.accept_DONE (c : Word) : (s.accept c).DONE = false := rfl
@[simp] theorem State.accept_ERR (c : Word) : (s.accept c).ERR = s.ERR := rfl
@[simp] theorem State.accept_XBLK (c : Word) : (s.accept c).XBLK = s.XBLK := rfl
@[simp] theorem State.accept_ERRCODE (c : Word) : (s.accept c).ERRCODE = s.ERRCODE := rfl
@[simp] theorem State.accept_DONE_IE (c : Word) : (s.accept c).DONE_IE = s.DONE_IE := rfl
@[simp] theorem State.accept_ERR_IE (c : Word) : (s.accept c).ERR_IE = s.ERR_IE := rfl
@[simp] theorem State.accept_LEN (c : Word) : (s.accept c).LEN = s.LEN := rfl
@[simp] theorem State.accept_H (c : Word) : (s.accept c).H = s.H := rfl
@[simp] theorem State.accept_MB (c : Word) : (s.accept c).MB = s.MB := rfl
@[simp] theorem State.accept_S (c : Word) : (s.accept c).S = s.S := rfl
@[simp] theorem State.accept_KB (c : Word) : (s.accept c).KB = s.KB := rfl
@[simp] theorem State.accept_PEND (c : Word) : (s.accept c).PEND = some c := rfl
@[simp] theorem State.accept_inbox (c : Word) : (s.accept c).inbox = s.inbox := rfl
@[simp] theorem State.accept_reply (c : Word) : (s.accept c).reply = s.reply := rfl
@[simp] theorem State.accept_draws (c : Word) : (s.accept c).draws = s.draws := rfl

/-! ### complete -/

@[simp] theorem State.complete_DONE : (s.complete).DONE = true := rfl
@[simp] theorem State.complete_ERR : (s.complete).ERR = s.ERR := rfl
@[simp] theorem State.complete_XBLK : (s.complete).XBLK = s.XBLK := rfl
@[simp] theorem State.complete_ERRCODE : (s.complete).ERRCODE = s.ERRCODE := rfl
@[simp] theorem State.complete_DONE_IE : (s.complete).DONE_IE = s.DONE_IE := rfl
@[simp] theorem State.complete_ERR_IE : (s.complete).ERR_IE = s.ERR_IE := rfl
@[simp] theorem State.complete_LEN : (s.complete).LEN = s.LEN := rfl
@[simp] theorem State.complete_H : (s.complete).H = s.H := rfl
@[simp] theorem State.complete_MB : (s.complete).MB = s.MB := rfl
@[simp] theorem State.complete_S : (s.complete).S = s.S := rfl
@[simp] theorem State.complete_KB : (s.complete).KB = s.KB := rfl
@[simp] theorem State.complete_PEND : (s.complete).PEND = none := rfl
@[simp] theorem State.complete_inbox : (s.complete).inbox = s.inbox := rfl
@[simp] theorem State.complete_reply : (s.complete).reply = s.reply := rfl
@[simp] theorem State.complete_draws : (s.complete).draws = s.draws := rfl

/-! ### raiseError -/

@[simp] theorem State.raiseError_DONE (e : ErrCode) : (s.raiseError e).DONE = s.DONE := by
  unfold State.raiseError; split <;> simp_all
@[simp] theorem State.raiseError_ERR (e : ErrCode) : (s.raiseError e).ERR = true := by
  unfold State.raiseError; split <;> simp_all
@[simp] theorem State.raiseError_XBLK (e : ErrCode) : (s.raiseError e).XBLK = s.XBLK := by
  unfold State.raiseError; split <;> simp_all
@[simp] theorem State.raiseError_ERRCODE (e : ErrCode) : (s.raiseError e).ERRCODE = if s.ERR then s.ERRCODE else errBits e := by
  unfold State.raiseError; split <;> simp_all
@[simp] theorem State.raiseError_DONE_IE (e : ErrCode) : (s.raiseError e).DONE_IE = s.DONE_IE := by
  unfold State.raiseError; split <;> simp_all
@[simp] theorem State.raiseError_ERR_IE (e : ErrCode) : (s.raiseError e).ERR_IE = s.ERR_IE := by
  unfold State.raiseError; split <;> simp_all
@[simp] theorem State.raiseError_LEN (e : ErrCode) : (s.raiseError e).LEN = s.LEN := by
  unfold State.raiseError; split <;> simp_all
@[simp] theorem State.raiseError_H (e : ErrCode) : (s.raiseError e).H = s.H := by
  unfold State.raiseError; split <;> simp_all
@[simp] theorem State.raiseError_MB (e : ErrCode) : (s.raiseError e).MB = s.MB := by
  unfold State.raiseError; split <;> simp_all
@[simp] theorem State.raiseError_S (e : ErrCode) : (s.raiseError e).S = s.S := by
  unfold State.raiseError; split <;> simp_all
@[simp] theorem State.raiseError_KB (e : ErrCode) : (s.raiseError e).KB = s.KB := by
  unfold State.raiseError; split <;> simp_all
@[simp] theorem State.raiseError_PEND (e : ErrCode) : (s.raiseError e).PEND = s.PEND := by
  unfold State.raiseError; split <;> simp_all
@[simp] theorem State.raiseError_inbox (e : ErrCode) : (s.raiseError e).inbox = s.inbox := by
  unfold State.raiseError; split <;> simp_all
@[simp] theorem State.raiseError_reply (e : ErrCode) : (s.raiseError e).reply = s.reply := by
  unfold State.raiseError; split <;> simp_all
@[simp] theorem State.raiseError_draws (e : ErrCode) : (s.raiseError e).draws = s.draws := by
  unfold State.raiseError; split <;> simp_all

/-! ### writeStatus -/

@[simp] theorem State.writeStatus_DONE (v : Word) : (s.writeStatus v).DONE = if v.getLsbD 1 then false else s.DONE := rfl
@[simp] theorem State.writeStatus_ERR (v : Word) : (s.writeStatus v).ERR = if v.getLsbD 2 then false else s.ERR := rfl
@[simp] theorem State.writeStatus_XBLK (v : Word) : (s.writeStatus v).XBLK = s.XBLK := rfl
@[simp] theorem State.writeStatus_ERRCODE (v : Word) : (s.writeStatus v).ERRCODE = if v.getLsbD 2 then 0 else s.ERRCODE := rfl
@[simp] theorem State.writeStatus_DONE_IE (v : Word) : (s.writeStatus v).DONE_IE = s.DONE_IE := rfl
@[simp] theorem State.writeStatus_ERR_IE (v : Word) : (s.writeStatus v).ERR_IE = s.ERR_IE := rfl
@[simp] theorem State.writeStatus_LEN (v : Word) : (s.writeStatus v).LEN = s.LEN := rfl
@[simp] theorem State.writeStatus_H (v : Word) : (s.writeStatus v).H = s.H := rfl
@[simp] theorem State.writeStatus_MB (v : Word) : (s.writeStatus v).MB = s.MB := rfl
@[simp] theorem State.writeStatus_S (v : Word) : (s.writeStatus v).S = s.S := rfl
@[simp] theorem State.writeStatus_KB (v : Word) : (s.writeStatus v).KB = s.KB := rfl
@[simp] theorem State.writeStatus_PEND (v : Word) : (s.writeStatus v).PEND = s.PEND := rfl
@[simp] theorem State.writeStatus_inbox (v : Word) : (s.writeStatus v).inbox = s.inbox := rfl
@[simp] theorem State.writeStatus_reply (v : Word) : (s.writeStatus v).reply = s.reply := rfl
@[simp] theorem State.writeStatus_draws (v : Word) : (s.writeStatus v).draws = s.draws := rfl

/-! ### writeIrqEn -/

@[simp] theorem State.writeIrqEn_DONE (v : Word) : (s.writeIrqEn v).DONE = s.DONE := rfl
@[simp] theorem State.writeIrqEn_ERR (v : Word) : (s.writeIrqEn v).ERR = s.ERR := rfl
@[simp] theorem State.writeIrqEn_XBLK (v : Word) : (s.writeIrqEn v).XBLK = s.XBLK := rfl
@[simp] theorem State.writeIrqEn_ERRCODE (v : Word) : (s.writeIrqEn v).ERRCODE = s.ERRCODE := rfl
@[simp] theorem State.writeIrqEn_DONE_IE (v : Word) : (s.writeIrqEn v).DONE_IE = v.getLsbD 1 := rfl
@[simp] theorem State.writeIrqEn_ERR_IE (v : Word) : (s.writeIrqEn v).ERR_IE = v.getLsbD 2 := rfl
@[simp] theorem State.writeIrqEn_LEN (v : Word) : (s.writeIrqEn v).LEN = s.LEN := rfl
@[simp] theorem State.writeIrqEn_H (v : Word) : (s.writeIrqEn v).H = s.H := rfl
@[simp] theorem State.writeIrqEn_MB (v : Word) : (s.writeIrqEn v).MB = s.MB := rfl
@[simp] theorem State.writeIrqEn_S (v : Word) : (s.writeIrqEn v).S = s.S := rfl
@[simp] theorem State.writeIrqEn_KB (v : Word) : (s.writeIrqEn v).KB = s.KB := rfl
@[simp] theorem State.writeIrqEn_PEND (v : Word) : (s.writeIrqEn v).PEND = s.PEND := rfl
@[simp] theorem State.writeIrqEn_inbox (v : Word) : (s.writeIrqEn v).inbox = s.inbox := rfl
@[simp] theorem State.writeIrqEn_reply (v : Word) : (s.writeIrqEn v).reply = s.reply := rfl
@[simp] theorem State.writeIrqEn_draws (v : Word) : (s.writeIrqEn v).draws = s.draws := rfl

/-! ### respond -/

@[simp] theorem State.respond_DONE (r : Reply) : (s.respond r).DONE = s.DONE := rfl
@[simp] theorem State.respond_ERR (r : Reply) : (s.respond r).ERR = s.ERR := rfl
@[simp] theorem State.respond_XBLK (r : Reply) : (s.respond r).XBLK = s.XBLK := rfl
@[simp] theorem State.respond_ERRCODE (r : Reply) : (s.respond r).ERRCODE = s.ERRCODE := rfl
@[simp] theorem State.respond_DONE_IE (r : Reply) : (s.respond r).DONE_IE = s.DONE_IE := rfl
@[simp] theorem State.respond_ERR_IE (r : Reply) : (s.respond r).ERR_IE = s.ERR_IE := rfl
@[simp] theorem State.respond_LEN (r : Reply) : (s.respond r).LEN = s.LEN := rfl
@[simp] theorem State.respond_H (r : Reply) : (s.respond r).H = s.H := rfl
@[simp] theorem State.respond_MB (r : Reply) : (s.respond r).MB = s.MB := rfl
@[simp] theorem State.respond_S (r : Reply) : (s.respond r).S = s.S := rfl
@[simp] theorem State.respond_KB (r : Reply) : (s.respond r).KB = s.KB := rfl
@[simp] theorem State.respond_PEND (r : Reply) : (s.respond r).PEND = s.PEND := rfl
@[simp] theorem State.respond_inbox (r : Reply) : (s.respond r).inbox = s.inbox := rfl
@[simp] theorem State.respond_reply (r : Reply) : (s.respond r).reply = some r := rfl
@[simp] theorem State.respond_draws (r : Reply) : (s.respond r).draws = s.draws := rfl

/-! ### setData -/

@[simp] theorem State.setData_DONE (r : Reg) (v : Word) : (s.setData r v).DONE = s.DONE := by cases r <;> rfl
@[simp] theorem State.setData_ERR (r : Reg) (v : Word) : (s.setData r v).ERR = s.ERR := by cases r <;> rfl
@[simp] theorem State.setData_XBLK (r : Reg) (v : Word) : (s.setData r v).XBLK = s.XBLK := by cases r <;> rfl
@[simp] theorem State.setData_ERRCODE (r : Reg) (v : Word) : (s.setData r v).ERRCODE = s.ERRCODE := by cases r <;> rfl
@[simp] theorem State.setData_DONE_IE (r : Reg) (v : Word) : (s.setData r v).DONE_IE = s.DONE_IE := by cases r <;> rfl
@[simp] theorem State.setData_ERR_IE (r : Reg) (v : Word) : (s.setData r v).ERR_IE = s.ERR_IE := by cases r <;> rfl
@[simp] theorem State.setData_PEND (r : Reg) (v : Word) : (s.setData r v).PEND = s.PEND := by cases r <;> rfl
@[simp] theorem State.setData_inbox (r : Reg) (v : Word) : (s.setData r v).inbox = s.inbox := by cases r <;> rfl
@[simp] theorem State.setData_reply (r : Reg) (v : Word) : (s.setData r v).reply = s.reply := by cases r <;> rfl
@[simp] theorem State.setData_draws (r : Reg) (v : Word) : (s.setData r v).draws = s.draws := by cases r <;> rfl

/-! ### applyReset -/

@[simp] theorem State.applyReset_DONE : (s.applyReset).DONE = State.reset.DONE := rfl
@[simp] theorem State.applyReset_ERR : (s.applyReset).ERR = State.reset.ERR := rfl
@[simp] theorem State.applyReset_XBLK : (s.applyReset).XBLK = State.reset.XBLK := rfl
@[simp] theorem State.applyReset_ERRCODE : (s.applyReset).ERRCODE = State.reset.ERRCODE := rfl
@[simp] theorem State.applyReset_DONE_IE : (s.applyReset).DONE_IE = State.reset.DONE_IE := rfl
@[simp] theorem State.applyReset_ERR_IE : (s.applyReset).ERR_IE = State.reset.ERR_IE := rfl
@[simp] theorem State.applyReset_LEN : (s.applyReset).LEN = State.reset.LEN := rfl
@[simp] theorem State.applyReset_H : (s.applyReset).H = State.reset.H := rfl
@[simp] theorem State.applyReset_MB : (s.applyReset).MB = State.reset.MB := rfl
@[simp] theorem State.applyReset_S : (s.applyReset).S = State.reset.S := rfl
@[simp] theorem State.applyReset_KB : (s.applyReset).KB = State.reset.KB := rfl
@[simp] theorem State.applyReset_PEND : (s.applyReset).PEND = State.reset.PEND := rfl
@[simp] theorem State.applyReset_inbox : (s.applyReset).inbox = s.inbox := rfl
@[simp] theorem State.applyReset_reply : (s.applyReset).reply = State.reset.reply := rfl
@[simp] theorem State.applyReset_draws : (s.applyReset).draws = s.draws := rfl

/-! ### offerCommand -/

@[simp] theorem State.offerCommand_XBLK (c : Word) : (s.offerCommand c).XBLK = s.XBLK := by
  unfold State.offerCommand; split
  · simp
  · split <;> simp
@[simp] theorem State.offerCommand_DONE_IE (c : Word) : (s.offerCommand c).DONE_IE = s.DONE_IE := by
  unfold State.offerCommand; split
  · simp
  · split <;> simp
@[simp] theorem State.offerCommand_ERR_IE (c : Word) : (s.offerCommand c).ERR_IE = s.ERR_IE := by
  unfold State.offerCommand; split
  · simp
  · split <;> simp
@[simp] theorem State.offerCommand_LEN (c : Word) : (s.offerCommand c).LEN = s.LEN := by
  unfold State.offerCommand; split
  · simp
  · split <;> simp
@[simp] theorem State.offerCommand_H (c : Word) : (s.offerCommand c).H = s.H := by
  unfold State.offerCommand; split
  · simp
  · split <;> simp
@[simp] theorem State.offerCommand_MB (c : Word) : (s.offerCommand c).MB = s.MB := by
  unfold State.offerCommand; split
  · simp
  · split <;> simp
@[simp] theorem State.offerCommand_S (c : Word) : (s.offerCommand c).S = s.S := by
  unfold State.offerCommand; split
  · simp
  · split <;> simp
@[simp] theorem State.offerCommand_KB (c : Word) : (s.offerCommand c).KB = s.KB := by
  unfold State.offerCommand; split
  · simp
  · split <;> simp
@[simp] theorem State.offerCommand_inbox (c : Word) : (s.offerCommand c).inbox = s.inbox := by
  unfold State.offerCommand; split
  · simp
  · split <;> simp
@[simp] theorem State.offerCommand_reply (c : Word) : (s.offerCommand c).reply = s.reply := by
  unfold State.offerCommand; split
  · simp
  · split <;> simp
@[simp] theorem State.offerCommand_draws (c : Word) : (s.offerCommand c).draws = s.draws := by
  unfold State.offerCommand; split
  · simp
  · split <;> simp

/-! ### writeReg -/

@[simp] theorem State.writeReg_XBLK (r : Reg) (v : Word) : (s.writeReg r v).XBLK = s.XBLK := by
  cases r <;> simp only [State.writeReg] <;> try split
  all_goals simp
@[simp] theorem State.writeReg_inbox (r : Reg) (v : Word) : (s.writeReg r v).inbox = s.inbox := by
  cases r <;> simp only [State.writeReg] <;> try split
  all_goals simp
@[simp] theorem State.writeReg_reply (r : Reg) (v : Word) : (s.writeReg r v).reply = s.reply := by
  cases r <;> simp only [State.writeReg] <;> try split
  all_goals simp
@[simp] theorem State.writeReg_draws (r : Reg) (v : Word) : (s.writeReg r v).draws = s.draws := by
  cases r <;> simp only [State.writeReg] <;> try split
  all_goals simp

/-! ### hostWrite -/

@[simp] theorem State.hostWrite_XBLK (z : BusSize) (off : Offset) (v : Word) : (s.hostWrite z off v).XBLK = s.XBLK := by
  unfold State.hostWrite; split <;> simp
@[simp] theorem State.hostWrite_inbox (z : BusSize) (off : Offset) (v : Word) : (s.hostWrite z off v).inbox = s.inbox := by
  unfold State.hostWrite; split <;> simp
@[simp] theorem State.hostWrite_draws (z : BusSize) (off : Offset) (v : Word) : (s.hostWrite z off v).draws = s.draws := by
  unfold State.hostWrite; split <;> simp

/-! ### hostRead -/

@[simp] theorem State.hostRead_DONE (z : BusSize) (off : Offset) : (s.hostRead z off).DONE = s.DONE := by
  unfold State.hostRead; split
  · simp
  · split <;> simp
@[simp] theorem State.hostRead_ERR (z : BusSize) (off : Offset) : (s.hostRead z off).ERR = s.ERR := by
  unfold State.hostRead; split
  · simp
  · split <;> simp
@[simp] theorem State.hostRead_XBLK (z : BusSize) (off : Offset) : (s.hostRead z off).XBLK = s.XBLK := by
  unfold State.hostRead; split
  · simp
  · split <;> simp
@[simp] theorem State.hostRead_ERRCODE (z : BusSize) (off : Offset) : (s.hostRead z off).ERRCODE = s.ERRCODE := by
  unfold State.hostRead; split
  · simp
  · split <;> simp
@[simp] theorem State.hostRead_DONE_IE (z : BusSize) (off : Offset) : (s.hostRead z off).DONE_IE = s.DONE_IE := by
  unfold State.hostRead; split
  · simp
  · split <;> simp
@[simp] theorem State.hostRead_ERR_IE (z : BusSize) (off : Offset) : (s.hostRead z off).ERR_IE = s.ERR_IE := by
  unfold State.hostRead; split
  · simp
  · split <;> simp
@[simp] theorem State.hostRead_LEN (z : BusSize) (off : Offset) : (s.hostRead z off).LEN = s.LEN := by
  unfold State.hostRead; split
  · simp
  · split <;> simp
@[simp] theorem State.hostRead_H (z : BusSize) (off : Offset) : (s.hostRead z off).H = s.H := by
  unfold State.hostRead; split
  · simp
  · split <;> simp
@[simp] theorem State.hostRead_MB (z : BusSize) (off : Offset) : (s.hostRead z off).MB = s.MB := by
  unfold State.hostRead; split
  · simp
  · split <;> simp
@[simp] theorem State.hostRead_S (z : BusSize) (off : Offset) : (s.hostRead z off).S = s.S := by
  unfold State.hostRead; split
  · simp
  · split <;> simp
@[simp] theorem State.hostRead_KB (z : BusSize) (off : Offset) : (s.hostRead z off).KB = s.KB := by
  unfold State.hostRead; split
  · simp
  · split <;> simp
@[simp] theorem State.hostRead_PEND (z : BusSize) (off : Offset) : (s.hostRead z off).PEND = s.PEND := by
  unfold State.hostRead; split
  · simp
  · split <;> simp
@[simp] theorem State.hostRead_inbox (z : BusSize) (off : Offset) : (s.hostRead z off).inbox = s.inbox := by
  unfold State.hostRead; split
  · simp
  · split <;> simp

/-! ### BUSY -/

@[simp] theorem State.accept_busy (c : Word) : (s.accept c).busy = true := rfl
@[simp] theorem State.complete_busy : s.complete.busy = false := rfl
@[simp] theorem State.raiseError_busy (e : ErrCode) : (s.raiseError e).busy = s.busy := by simp [State.busy]
@[simp] theorem State.respond_busy (r : Reply) : (s.respond r).busy = s.busy := rfl
@[simp] theorem State.setData_busy (r : Reg) (v : Word) : (s.setData r v).busy = s.busy := by simp [State.busy]
@[simp] theorem State.writeStatus_busy (v : Word) : (s.writeStatus v).busy = s.busy := rfl
@[simp] theorem State.writeIrqEn_busy (v : Word) : (s.writeIrqEn v).busy = s.busy := rfl
@[simp] theorem State.hostRead_busy (z : BusSize) (off : Offset) : (s.hostRead z off).busy = s.busy := by
  simp [State.busy]

/-- BUSY is 1 exactly when PEND holds a command (10_state.md R35). -/
theorem State.busy_iff : s.busy = true ↔ ∃ c, s.PEND = some c := Option.isSome_iff_exists

theorem State.busy_eq_false_iff : s.busy = false ↔ s.PEND = none := by
  simp [State.busy]

end Sys2Proof.Machine
end

