-- ==== Sys2Proof/Laws/Ops.lean ====
section
/-! SUPPORT. One lemma per shared operation that says once everything it can do, and the inversion of a step. -/

namespace Sys2Proof.Machine

variable (s : State)

/-- The address decode reads back every register's offset. -/
theorem regAt_offset (r : Reg) : regAt r.offset = some r := by
  cases r with
  | id => rfl
  | status => rfl
  | cmd => rfl
  | irqEn => rfl
  | lenLo => rfl
  | lenHi => rfl
  | h i => revert i; decide
  | mb k => revert k; decide
  | sLo i => revert i; decide
  | sHi i => revert i; decide
  | kbLo j => revert j; decide
  | kbHi j => revert j; decide

@[simp] theorem busTarget_offset (r : Reg) : busTarget .bits32 r.offset = some r := by
  simp [busTarget, regAt_offset]

theorem busTarget_eq_some {z : BusSize} {off : Offset} {r : Reg} :
    busTarget z off = some r ↔ z = .bits32 ∧ regAt off = some r := by
  unfold busTarget; split <;> simp_all

/-- Recording an error, as one record update (60_exceptions.md R333, R334). -/
theorem State.raiseError_eq (e : ErrCode) :
    s.raiseError e = { s with ERR := true, ERRCODE := if s.ERR then s.ERRCODE else errBits e } := by
  ext <;> simp

/-- What a CMD write can do (60_exceptions.md R331): refuse with BUSY, refuse with the decoder's code, or accept. -/
theorem State.offerCommand_cases (c : Word) :
    (s.busy = true ∧ s.offerCommand c = s.raiseError .busy) ∨
    (s.busy = false ∧ ∃ e, decode c = .error e ∧ s.offerCommand c = s.raiseError e) ∨
    (s.busy = false ∧ ∃ i, decode c = .ok i ∧ s.offerCommand c = s.accept c) := by
  unfold State.offerCommand
  cases hb : s.busy with
  | true => exact .inl ⟨rfl, if_pos rfl⟩
  | false =>
    rw [if_neg Bool.false_ne_true]
    cases hd : decode c with
    | error e => exact .inr (.inl ⟨rfl, e, rfl, rfl⟩)
    | ok i => exact .inr (.inr ⟨rfl, i, rfl, rfl⟩)

/-- What a performed write to a data register can do (20_memory.md R86). -/
theorem State.writeReg_data {r : Reg} (v : Word) (hr : r.isData = true) :
    s.writeReg r v = if s.busy then s.raiseError .busy else s.setData r v := by
  cases r <;> first | rfl | cases hr

/-- What a performed write can do: one of the seven effects of 20_memory.md R86. -/
theorem State.writeReg_cases (r : Reg) (v : Word) :
    (r = .id ∧ s.writeReg r v = s) ∨
    (r = .status ∧ s.writeReg r v = s.writeStatus v) ∨
    (r = .cmd ∧ s.writeReg r v = s.offerCommand v) ∨
    (r = .irqEn ∧ s.writeReg r v = s.writeIrqEn v) ∨
    (r.isData = true ∧ s.busy = true ∧ s.writeReg r v = s.raiseError .busy) ∨
    (r.isData = true ∧ s.busy = false ∧ s.writeReg r v = s.setData r v) := by
  cases hd : r.isData with
  | true =>
    rw [s.writeReg_data v hd]
    cases s.busy <;> simp
  | false => cases r <;> simp_all [State.writeReg, Reg.isData]

/-- A host read changes nothing but the response and the count of free values (20_memory.md R85). -/
theorem State.hostRead_eq (z : BusSize) (off : Offset) :
    ∃ r n, s.hostRead z off = { s with reply := some r, draws := n } := by
  unfold State.hostRead
  split
  · exact ⟨.busError, s.draws, rfl⟩
  · split
    · exact ⟨_, s.draws + 1, rfl⟩
    · exact ⟨_, s.draws, rfl⟩

/-- A host write is a `BusError` with no effect, or a performed write answered `Ok` (20_memory.md R81, R86). -/
theorem State.hostWrite_cases (z : BusSize) (off : Offset) (v : Word) :
    (busTarget z off = none ∧ s.hostWrite z off v = s.respond .busError) ∨
    (∃ r, busTarget z off = some r ∧ s.hostWrite z off v = (s.writeReg r v).respond .ok) := by
  unfold State.hostWrite
  cases busTarget z off with
  | none => exact .inl ⟨rfl, rfl⟩
  | some r => exact .inr ⟨r, rfl, rfl⟩

/-- A write that reaches register r. -/
theorem State.hostWrite_offset (r : Reg) (v : Word) :
    s.hostWrite .bits32 r.offset v = (s.writeReg r v).respond .ok := by
  simp [State.hostWrite]

/-- A read that reaches register r and is exact. -/
theorem State.hostRead_offset (r : Reg) (h : (s.busy && r.isData) = false) :
    s.hostRead .bits32 r.offset = s.respond (.data (s.readReg r)) := by
  simp [State.hostRead, h]

/-- What the engine's step can do. -/
theorem engineStep_cases :
    (s.PEND = none ∧ engineStep s = .next s) ∨
    (∃ c i, s.PEND = some c ∧ decode c = .ok i ∧ engineStep s = exec i s) ∨
    (∃ c e, s.PEND = some c ∧ decode c = .error e ∧ engineStep s = .fault (.pendIllegal e)) := by
  unfold engineStep State.pending
  cases hp : s.PEND with
  | none => exact .inl ⟨rfl, rfl⟩
  | some c =>
    cases hd : decode c with
    | ok i => exact .inr (.inl ⟨c, i, rfl, hd, by simp [hd]⟩)
    | error e => exact .inr (.inr ⟨c, e, rfl, hd, by simp [hd]⟩)

variable {s}

theorem step_write {z : BusSize} {off : Offset} {v : Word} {rest : List Event} (h : s.inbox = .write z off v :: rest) :
    step s = .next ({ s with inbox := rest }.hostWrite z off v) := by
  simp only [step, h]

theorem step_read {z : BusSize} {off : Offset} {rest : List Event} (h : s.inbox = .read z off :: rest) :
    step s = .next ({ s with inbox := rest }.hostRead z off) := by
  simp only [step, h]

theorem step_complete {rest : List Event} (h : s.inbox = .complete :: rest) :
    step s = engineStep { s with inbox := rest } := by
  simp only [step, h]

theorem step_reset {rest : List Event} (h : s.inbox = .reset :: rest) :
    step s = .next { s with inbox := rest }.applyReset := by
  simp only [step, h]

theorem step_nil (h : s.inbox = []) : step s = engineStep s := by
  simp only [step, h]

variable (s)

/-- Everything a step can do, guards included. -/
theorem step_cases :
    (s.inbox = [] ∧ step s = engineStep s) ∨
    (∃ rest, s.inbox = .complete :: rest ∧ step s = engineStep { s with inbox := rest }) ∨
    (∃ rest, s.inbox = .reset :: rest ∧ step s = .next { s with inbox := rest }.applyReset) ∨
    (∃ z off rest, s.inbox = .read z off :: rest ∧ step s = .next ({ s with inbox := rest }.hostRead z off)) ∨
    (∃ z off v rest, s.inbox = .write z off v :: rest ∧
      step s = .next ({ s with inbox := rest }.hostWrite z off v)) := by
  unfold step
  cases s.inbox with
  | nil => exact .inl ⟨rfl, rfl⟩
  | cons e rest =>
    cases e with
    | complete => exact .inr (.inl ⟨rest, rfl, rfl⟩)
    | reset => exact .inr (.inr (.inl ⟨rest, rfl, rfl⟩))
    | read z off => exact .inr (.inr (.inr (.inl ⟨z, off, rest, rfl, rfl⟩)))
    | write z off v => exact .inr (.inr (.inr (.inr ⟨z, off, v, rest, rfl, rfl⟩)))

end Sys2Proof.Machine
end

