-- ==== Sys2Proof/Laws/Exec.lean ====
section
/-! SUPPORT. What a command can do to the state, once for all eight; and runs of the inbox. -/

namespace Sys2Proof.Machine

/-- Everything a well-formed command can do: its effect on the data registers and XBLK, each only if the command writes it,
and then the end of the lifecycle (10_state.md R44, 30_encoding.md R124). -/
theorem exec_wellFormed (i : Instr) (s : State) (hw : i.WellFormed) :
    ∃ x h mb l kb, exec i s = .next (State.complete { s with XBLK := x, H := h, MB := mb, S := l, KB := kb }) ∧
      (i.writesXblk = false → x = s.XBLK) ∧ ((∀ j, i.writes (.h j) = false) → h = s.H) ∧
      ((∀ j, i.writes (.mb j) = false) → mb = s.MB) ∧ ((∀ j, i.writes (.sLo j) = false) → l = s.S) ∧
      ((∀ j, i.writes (.kbLo j) = false) → kb = s.KB) := by
  cases i with
  | sha1Pad n =>
    have hn : n.toNat ≤ 63 := by simpa [Instr.WellFormed, Instr.wellFormed] using hw
    exact ⟨_, _, _, _, _, if_pos hn, by simp [Instr.writesXblk], fun _ => rfl, by simp [Instr.writes], fun _ => rfl,
      fun _ => rfl⟩
  | sha3Pad n =>
    have hn : n.toNat ≤ 135 := by simpa [Instr.WellFormed, Instr.wellFormed] using hw
    exact ⟨_, _, _, _, _, if_pos hn, fun _ => rfl, fun _ => rfl, fun _ => rfl, fun _ => rfl, by simp [Instr.writes]⟩
  | sha1Init =>
    exact ⟨_, _, _, _, _, rfl, by simp [Instr.writesXblk], by simp [Instr.writes], fun _ => rfl, fun _ => rfl, fun _ => rfl⟩
  | sha1Compress =>
    exact ⟨_, _, _, _, _, rfl, fun _ => rfl, by simp [Instr.writes], fun _ => rfl, fun _ => rfl, fun _ => rfl⟩
  | sha1Padlen =>
    exact ⟨_, _, _, _, _, rfl, by simp [Instr.writesXblk], fun _ => rfl, by simp [Instr.writes], fun _ => rfl, fun _ => rfl⟩
  | keccakClear =>
    exact ⟨_, _, _, _, _, rfl, fun _ => rfl, fun _ => rfl, fun _ => rfl, by simp [Instr.writes], fun _ => rfl⟩
  | keccakPermute =>
    exact ⟨_, _, _, _, _, rfl, fun _ => rfl, fun _ => rfl, fun _ => rfl, by simp [Instr.writes], fun _ => rfl⟩
  | keccakAbsorb =>
    exact ⟨_, _, _, _, _, rfl, fun _ => rfl, fun _ => rfl, fun _ => rfl, by simp [Instr.writes], fun _ => rfl⟩

@[simp] theorem runInbox_nil (s : State) : runInbox s [] = .next { s with inbox := [] } := rfl

/-- `k + 1` steps are the first step and then `k` steps, if the first answers a next state. -/
theorem run_succ_of_next (M : Host.Core) (k : Nat) (s t : M.State) (h : M.step s = .next t) : M.run (k + 1) s = M.run k t := by
  simp only [Host.Core.run, h]

/-- A run takes the first step and then the rest, if the first answers a next state with the rest laid out. -/
theorem runInbox_cons (s t : State) (e : Event) (es : List Event)
    (h : step { s with inbox := e :: es } = .next t) (ht : t.inbox = es) : runInbox s (e :: es) = runInbox t es := by
  subst ht
  exact run_succ_of_next Sys2Proof.core t.inbox.length ({ s with inbox := e :: t.inbox } : State) t h

end Sys2Proof.Machine
end

