-- ==== Sys2Proof/Laws/Operands.lean ====
section
/-! SUPPORT. The byte views of the block buffers (10_state.md R46, R48) undo each other. -/

namespace Sys2Proof.Machine

theorem mbByte_eq (mb : Vector Word 16) (p : Fin 64) :
    mbByte mb p = byteOf (3 - p.val % 4) (mb[p.val / 4]'(by omega)) := by
  unfold mbByte byteOf
  congr 1; omega

/-- Reading back the bytes a block was made of. -/
@[simp] theorem mbByte_mbOfBytes (g : Fin 64 → Byte) (p : Fin 64) : mbByte (mbOfBytes g) p = g p := by
  rw [mbByte_eq]
  simp only [mbOfBytes, Vector.getElem_ofFn]
  obtain ⟨h0, h1, h2, h3⟩ := byteOf_be32 (g ⟨4 * (p.val / 4), by omega⟩) (g ⟨4 * (p.val / 4) + 1, by omega⟩)
    (g ⟨4 * (p.val / 4) + 2, by omega⟩) (g ⟨4 * (p.val / 4) + 3, by omega⟩)
  obtain h | h | h | h : p.val % 4 = 0 ∨ p.val % 4 = 1 ∨ p.val % 4 = 2 ∨ p.val % 4 = 3 := by omega
  · rw [h, h0]; congr 1; ext; simp; omega
  · rw [h, h1]; congr 1; ext; simp; omega
  · rw [h, h2]; congr 1; ext; simp; omega
  · rw [h, h3]; congr 1; ext; simp; omega

/-- A block is made of its bytes. -/
theorem mbOfBytes_mbByte (mb : Vector Word 16) : mbOfBytes (mbByte mb) = mb := by
  apply Vector.ext
  intro k hk
  simp only [mbOfBytes, Vector.getElem_ofFn, mbByte_eq, show 4 * k % 4 = 0 by omega, show (4 * k + 1) % 4 = 1 by omega,
    show (4 * k + 2) % 4 = 2 by omega, show (4 * k + 3) % 4 = 3 by omega, show 4 * k / 4 = k by omega,
    show (4 * k + 1) / 4 = k by omega, show (4 * k + 2) / 4 = k by omega, show (4 * k + 3) / 4 = k by omega]
  exact be32_byteOf mb[k]

@[simp] theorem kbByte_kbOfBytes (g : Fin 136 → Byte) (p : Fin 136) : kbByte (kbOfBytes g) p = g p := by
  simp only [kbByte, kbOfBytes, Vector.getElem_ofFn]
  obtain ⟨h0, h1, h2, h3, h4, h5, h6, h7⟩ := byteOf_le64 (g ⟨8 * (p.val / 8), by omega⟩)
    (g ⟨8 * (p.val / 8) + 1, by omega⟩) (g ⟨8 * (p.val / 8) + 2, by omega⟩) (g ⟨8 * (p.val / 8) + 3, by omega⟩)
    (g ⟨8 * (p.val / 8) + 4, by omega⟩) (g ⟨8 * (p.val / 8) + 5, by omega⟩) (g ⟨8 * (p.val / 8) + 6, by omega⟩)
    (g ⟨8 * (p.val / 8) + 7, by omega⟩)
  obtain h | h | h | h | h | h | h | h : p.val % 8 = 0 ∨ p.val % 8 = 1 ∨ p.val % 8 = 2 ∨ p.val % 8 = 3 ∨
    p.val % 8 = 4 ∨ p.val % 8 = 5 ∨ p.val % 8 = 6 ∨ p.val % 8 = 7 := by omega
  · rw [h, h0]; congr 1; ext; simp; omega
  · rw [h, h1]; congr 1; ext; simp; omega
  · rw [h, h2]; congr 1; ext; simp; omega
  · rw [h, h3]; congr 1; ext; simp; omega
  · rw [h, h4]; congr 1; ext; simp; omega
  · rw [h, h5]; congr 1; ext; simp; omega
  · rw [h, h6]; congr 1; ext; simp; omega
  · rw [h, h7]; congr 1; ext; simp; omega

theorem kbOfBytes_kbByte (kb : Vector Lane 17) : kbOfBytes (kbByte kb) = kb := by
  apply Vector.ext
  intro k hk
  simp only [kbOfBytes, Vector.getElem_ofFn, kbByte, show 8 * k % 8 = 0 by omega, show (8 * k + 1) % 8 = 1 by omega,
    show (8 * k + 2) % 8 = 2 by omega, show (8 * k + 3) % 8 = 3 by omega, show (8 * k + 4) % 8 = 4 by omega,
    show (8 * k + 5) % 8 = 5 by omega, show (8 * k + 6) % 8 = 6 by omega, show (8 * k + 7) % 8 = 7 by omega,
    show 8 * k / 8 = k by omega, show (8 * k + 1) / 8 = k by omega, show (8 * k + 2) / 8 = k by omega,
    show (8 * k + 3) / 8 = k by omega, show (8 * k + 4) / 8 = k by omega, show (8 * k + 5) / 8 = k by omega,
    show (8 * k + 6) / 8 = k by omega, show (8 * k + 7) / 8 = k by omega]
  exact le64_byteOf kb[k]

end Sys2Proof.Machine
end

