-- ==== Sys2Proof/Laws/Keccak.lean ====
section
/-! SUPPORT. Lanes by coordinates, the walk of ρ, the rounds as a fold, and a block's lanes from its bytes. -/

namespace Sys2Proof.Machine

@[simp] theorem laneAt_ofLanes (g : Fin 5 → Fin 5 → Lane) (x y : Fin 5) : laneAt (ofLanes g) x y = g x y := by
  unfold laneAt ofLanes
  rw [Vector.getElem_ofFn]
  congr 1 <;> apply Fin.ext <;> simp
  omega

theorem getElem_ofLanes (g : Fin 5 → Fin 5 → Lane) (x y : Nat) (hx : x < 5) (hy : y < 5) :
    (ofLanes g)[5 * y + x] = g ⟨x, hx⟩ ⟨y, hy⟩ := laneAt_ofLanes g ⟨x, hx⟩ ⟨y, hy⟩

/-- The walk leaves a lane it has not come to. -/
theorem rhoWalkUpTo_of_ne (a : Lanes) (i : Nat) (hi : i < 25) :
    ∀ n : Nat, (∀ t < n, (rhoIndex t).val ≠ i) → (rhoWalkUpTo a n)[i] = a[i]
  | 0, _ => rfl
  | n + 1, h => by
    rw [rhoWalkUpTo, Vector.getElem_set_ne _ _ (h n (by omega))]
    exact rhoWalkUpTo_of_ne a i hi n fun t ht => h t (by omega)

/-- The lane of step t holds its rotation for as long as no later step comes to it. -/
theorem rhoWalkUpTo_index (a : Lanes) (t d : Nat) (hne : ∀ u, t < u → u < t + 1 + d → rhoIndex u ≠ rhoIndex t) :
    (rhoWalkUpTo a (t + 1 + d))[rhoIndex t] = rotl a[rhoIndex t] ((t + 1) * (t + 2) / 2 % 64) := by
  induction d with
  | zero => simp [rhoWalkUpTo]
  | succ d ih =>
    rw [← ih fun u h1 h2 => hne u h1 (by omega), ← Nat.add_assoc, rhoWalkUpTo]
    simp only [Fin.getElem_fin]
    rw [Vector.getElem_set_ne]
    exact fun h => hne (t + 1 + d) (by omega) (by omega) (Fin.ext h)

/-- The rounds, as a fold over the round indices. -/
theorem keccakRounds_eq_foldl (a : Lanes) :
    ∀ (n : Nat) (hn : n ≤ 24), keccakRounds a n hn = ((List.finRange 24).take n).foldl keccakRound a
  | 0, _ => rfl
  | n + 1, hn => by
    rw [keccakRounds, keccakRounds_eq_foldl a n (by omega), List.take_add_one, List.foldl_append]
    simp [show n < 24 by omega]

theorem xorBlock_rate (a : Lanes) (kb : Vector Lane 17) (j : Nat) (hj : j < 17) :
    (xorBlock a kb)[j] = a[j] ^^^ kb[j] := by
  simp [xorBlock, hj]

theorem xorBlock_capacity (a : Lanes) (kb : Vector Lane 17) (j : Nat) (hj : 17 ≤ j) (hj' : j < 25) :
    (xorBlock a kb)[j] = a[j] := by
  simp [xorBlock, Nat.not_lt.2 hj]

/-- The block of a byte list of 136 bytes has the bytes of the list. -/
theorem kbOfList_ofFn (g : Fin 136 → Byte) : kbOfList (List.ofFn g) = kbOfBytes g := by
  unfold kbOfList
  congr 1
  funext p
  rw [List.getD_eq_getElem?_getD, List.getElem?_ofFn]
  simp

end Sys2Proof.Machine
end

