-- ==== Sys2Proof/Laws/PerInstr.lean ====
section
/-! SUPPORT. Statements made per instruction, one lemma per constructor of `Instr`. Family `Fields`: the fields of a command's
word are those of its format (30_encoding.md R120, R121). -/

namespace Sys2Proof.Laws.Fields

/-- RSV is 0, N is 0 for a format-Z command, and OPC with N selects the command again. -/
def Statement (i : Instr) : Prop :=
  cmdRsv (encode i) = 0 ∧ (i.isFormatZ = true → cmdN (encode i) = 0) ∧
    commandOf (cmdOpc (encode i)) (cmdN (encode i)) = some i

theorem sha1Init : Statement .sha1Init := encode_fields _
theorem sha1Compress : Statement .sha1Compress := encode_fields _
theorem sha1Pad (n : Byte) : Statement (.sha1Pad n) := encode_fields _
theorem sha1Padlen : Statement .sha1Padlen := encode_fields _
theorem keccakClear : Statement .keccakClear := encode_fields _
theorem keccakPermute : Statement .keccakPermute := encode_fields _
theorem keccakAbsorb : Statement .keccakAbsorb := encode_fields _
theorem sha3Pad (n : Byte) : Statement (.sha3Pad n) := encode_fields _

end Sys2Proof.Laws.Fields
end

