-- ==== Sys2Proof/Laws/Reference.lean ====
section
/-! SUPPORT. The blocks of a byte string and the tails of the padded messages. -/

namespace Sys2Proof.Machine

/-- The blocks of a string are those of its first part and then those of the rest. -/
theorem blocksOf_add (k : Nat) (l : List Byte) (a b : Nat) (h : k * a ≤ l.length) :
    blocksOf k (a + b) l = blocksOf k a l ++ blocksOf k b (l.drop (k * a)) := by
  induction a generalizing l with
  | zero => simp [blocksOf]
  | succ a ih =>
    rw [show a + 1 + b = (a + b) + 1 by omega, blocksOf, blocksOf, ih]
    · simp [List.drop_drop, Nat.mul_succ, Nat.add_comm]
    · simp [Nat.mul_succ] at *; omega

/-- What follows the blocks does not matter to them. -/
theorem blocksOf_append (k : Nat) (l l' : List Byte) (a : Nat) (h : k * a ≤ l.length) :
    blocksOf k a (l ++ l') = blocksOf k a l := by
  induction a generalizing l with
  | zero => rfl
  | succ a ih =>
    rw [Nat.mul_succ] at h
    rw [blocksOf, blocksOf, List.take_append_of_le_length (by omega), List.drop_append_of_le_length (by omega), ih]
    simp; omega

/-- The padding of R213 starts with the message. -/
theorem sha1Pad_eq_append (m : List Byte) : ∃ tl, sha1Pad m = m ++ tl := by
  unfold sha1Pad; simp

/-- The padding of R286 starts with the message. -/
theorem sha3Pad_eq_append (m : List Byte) : ∃ tl, sha3Pad m = m ++ tl := by
  unfold sha3Pad; simp only []; split <;> simp

/-- The MB of a block cut from a byte string, by its bytes. -/
theorem mbOfList_block (l : List Byte) (q : Nat) :
    mbOfList ((l.drop (64 * q)).take 64) = mbOfBytes fun p => l.getD (64 * q + p.val) 0 := by
  unfold mbOfList
  congr 1
  funext p
  simp [List.getD_eq_getElem?_getD, List.getElem?_drop]

/-- The KB of a block cut from a byte string, by its bytes. -/
theorem kbOfList_block (l : List Byte) (q : Nat) :
    kbOfList ((l.drop (136 * q)).take 136) = kbOfBytes fun p => l.getD (136 * q + p.val) 0 := by
  unfold kbOfList
  congr 1
  funext p
  simp [List.getD_eq_getElem?_getD, List.getElem?_drop]

/-- A hex digit decodes to its value (40_bit_utilities.md R171, R172). -/
theorem hexValue_hexDigit : ∀ d < 16, hexValue (hexDigit d) = some d := by decide

theorem hexFold_append (a b : List Char) (acc : Nat) :
    hexFold acc (a ++ b) = (hexFold acc a).bind fun r => hexFold r b := by
  induction a generalizing acc with
  | nil => rfl
  | cons c a ih => simp only [List.cons_append, hexFold]; split <;> simp [ih]

end Sys2Proof.Machine
end

