-- ==== Sys2Proof/Laws/Sha1.lean ====
section
/-! SUPPORT. The message schedule word by word, and the words and bytes of the padded blocks. -/

namespace Sys2Proof.Machine

/-- A longer prefix of the schedule keeps the words of a shorter one. -/
theorem scheduleUpTo_getElem (m : Vector Word 16) (n k : Nat) (hk : k < 16 + n) :
    ∀ d : Nat, (scheduleUpTo m (n + d))[k]'(by omega) = (scheduleUpTo m n)[k]
  | 0 => rfl
  | d + 1 => by
    rw [← scheduleUpTo_getElem m n k hk d]
    show (scheduleUpTo m (n + d + 1))[k]'_ = _
    simp only [scheduleUpTo]
    rw [Vector.getElem_push, dif_pos (by omega)]

/-- The last word of a prefix of the schedule (R205). -/
theorem scheduleUpTo_last (m : Vector Word 16) (n : Nat) :
    (scheduleUpTo m (n + 1))[16 + n]'(by omega) =
      rotl ((scheduleUpTo m n)[13 + n] ^^^ (scheduleUpTo m n)[8 + n] ^^^ (scheduleUpTo m n)[2 + n]
        ^^^ (scheduleUpTo m n)[n]) 1 := by
  simp only [scheduleUpTo]
  rw [Vector.getElem_push, dif_neg (by omega)]

/-- The words of the schedule are those of any prefix that has them. -/
theorem schedule_getElem (m : Vector Word 16) (n k : Nat) (hk : k < 16 + n) (hn : n ≤ 64) :
    (schedule m)[k]'(by omega) = (scheduleUpTo m n)[k] := by
  have h : ∀ N, N = n + (64 - n) → ∀ h' : k < 16 + N, (scheduleUpTo m N)[k] = (scheduleUpTo m n)[k] := by
    rintro N rfl _
    exact scheduleUpTo_getElem m n k hk (64 - n)
  exact h 64 (by omega) (by omega)

/-- Writing the length leaves the first fourteen words. -/
theorem putLength_getElem (len : Lane) (mb : Vector Word 16) (k : Nat) (hk : k < 14) :
    (putLength len mb)[k] = mb[k] := by
  unfold putLength
  rw [Vector.getElem_set_ne _ _ (by omega), Vector.getElem_set_ne _ _ (by omega)]

@[simp] theorem putLength_14 (len : Lane) (mb : Vector Word 16) : (putLength len mb)[14] = hiHalf len := by
  simp [putLength]

@[simp] theorem putLength_15 (len : Lane) (mb : Vector Word 16) : (putLength len mb)[15] = loHalf len := by
  simp [putLength]

/-- Writing the length leaves the first 56 bytes. -/
theorem mbByte_putLength (len : Lane) (mb : Vector Word 16) (p : Fin 64) (hp : p.val < 56) :
    mbByte (putLength len mb) p = mbByte mb p := by
  rw [mbByte_eq, mbByte_eq, putLength_getElem _ _ _ (by omega)]

end Sys2Proof.Machine
end

