-- ==== Sys2Proof/Machine/HostProgram.lean ====
section
/-! DEFINITION. The host side of 30_encoding.md section 4: the operations of the assembler syntax and the pseudo-instructions
(R132, R133), each as the steps it lays out in the inbox, and the host procedures of 41_sha1.md R233 and 42_sha3_keccak.md
R297. The core sees only the transactions (R133). A `wait` loop is given by how many of its reads find BUSY = 1 before the
engine completes; any number is a schedule (10_state.md R44). The XBLK test of `sha1.final` is given by the bit the host
read (R134: control flow exists in the host only). -/

namespace Sys2Proof.Machine

/-- `wr OFF, VAL` (R132). -/
def hostWr (r : Reg) (v : Word) : Event := .write .bits32 r.offset v

/-- `rd OFF` (R132). -/
def hostRd (r : Reg) : Event := .read .bits32 r.offset

/-- A command mnemonic: one write of its word to CMD (R132). -/
def hostCmd (i : Instr) : Event := hostWr .cmd (encode i)

/-- `wait` after a command, with `polls` reads of STATUS before the completion and one after it (R133). -/
def hostWait (polls : Nat) : List Event := List.replicate polls (hostRd .status) ++ [.complete, hostRd .status]

/-- A command awaited to completion. -/
def hostRun (polls : Nat) (i : Instr) : List Event := hostCmd i :: hostWait polls

/-- `ldlen L` (R133). -/
def hostLdlen (len : Lane) : List Event := [hostWr .lenLo (loHalf len), hostWr .lenHi (hiHalf len)]

/-- `clrst`: clear DONE and ERR (R133). -/
def hostClrst : List Event := [hostWr .status 0x00000006]

/-- How many polls each of the four waits of `sha1.final` takes; each count is its own (10_state.md R44, 30_encoding.md R133).
The last two belong to the waits of the XBLK branch. -/
structure Sha1FinalPolls where
  pad : Nat
  compress : Nat
  padlen : Nat
  lengthCompress : Nat
  deriving DecidableEq, Repr

/-- The commands that end a SHA-1 message (41_sha1.md R233), the XBLK bit the host sees being `xblk` and `testReads` the reads of
STATUS it makes to see it: none where it takes the bit from the last read of the wait before. -/
def hostSha1Last (testReads : Nat) (polls : Sha1FinalPolls) (xblk : Bool) (n : Byte) : List Event :=
  hostRun polls.pad (.sha1Pad n) ++ hostRun polls.compress .sha1Compress ++ List.replicate testReads (hostRd .status)
    ++ (if xblk then hostRun polls.padlen .sha1Padlen ++ hostRun polls.lengthCompress .sha1Compress else [])

/-- `sha1.final N`, the bit 3 the host reads from STATUS being `xblk` (R133). -/
def hostSha1Final (polls : Sha1FinalPolls) (xblk : Bool) (n : Byte) : List Event := hostSha1Last 1 polls xblk n

/-- `sha3.final N`, each of its two waits with its own count of polls (R133). -/
def hostSha3Final (padPolls absorbPolls : Nat) (n : Byte) : List Event :=
  hostRun padPolls (.sha3Pad n) ++ hostRun absorbPolls .keccakAbsorb

/-- The writes of a whole SHA-1 block into MB, in the order of R233's loop (41_sha1.md R233). -/
def hostWriteMB (mb : Vector Word 16) : List Event := (List.finRange 16).map fun k => hostWr (.mb k) mb[k]

/-- The writes of a whole Keccak block into KB, lane after lane as in R297's loop (42_sha3_keccak.md R297). That the low half of a
lane is written before its high half is the model's choice (log entry 24). -/
def hostWriteKB (kb : Vector Lane 17) : List Event :=
  (List.finRange 17).flatMap fun j => [hostWr (.kbLo j) (loHalf kb[j]), hostWr (.kbHi j) (hiHalf kb[j])]

/-- The register at `0x200 + 4 * u`: half u of KB (10_state.md R48, R50). -/
def kbHalf (u : Fin 34) : Reg := if u.val % 2 = 0 then .kbLo ⟨u.val / 2, by omega⟩ else .kbHi ⟨u.val / 2, by omega⟩

/-- The writes of chosen words of MB, in the order given. -/
def hostWriteMBWords (ws : List (Fin 16 × Word)) : List Event := ws.map fun w => hostWr (.mb w.1) w.2

/-- The writes of chosen halves of KB, in the order given. -/
def hostWriteKBHalves (ws : List (Fin 34 × Word)) : List Event := ws.map fun w => hostWr (kbHalf w.1) w.2

/-- The host procedure of 41_sha1.md R233: `chunks` are the whole 64-byte blocks of the message as MB values, each with the count
of polls of its own wait. `tail` is the list of the writes that bring the n remaining bytes into MB: R233 asks for bytes 0..n-1
only and leaves the words written, their order and the other bytes to the host, so the list is an argument (empty for n = 0 if
the host writes nothing, MB0 alone in 95_test_vectors.md P1). Every wait has its own count. The XBLK bit the host sees is the one
SHA1_PAD n sets (41_sha1.md R222). That every command is awaited by polling, and not by the interrupt output, is the model's
choice (log entry 24). -/
def hostSha1 (initPolls : Nat) (len : Lane) (chunks : List (Vector Word 16 × Nat)) (tail : List (Fin 16 × Word))
    (testReads : Nat) (finalPolls : Sha1FinalPolls) (n : Byte) : List Event :=
  hostRun initPolls .sha1Init ++ hostLdlen len
    ++ chunks.flatMap (fun c => hostWriteMB c.1 ++ hostRun c.2 .sha1Compress)
    ++ hostWriteMBWords tail ++ hostSha1Last testReads finalPolls (xblkOf n) n

/-- The host procedure of 42_sha3_keccak.md R297: `chunks` are the whole 136-byte blocks of the message as KB values, each with the
count of polls of its own wait. `tail` is the list of the writes that bring the n remaining bytes into KB: R297 asks for bytes
0..n-1 only and leaves the halves written, their order and the other bytes to the host, so the list is an argument. The waits are
as in `hostSha1` (log entry 24). -/
def hostSha3 (clearPolls : Nat) (chunks : List (Vector Lane 17 × Nat)) (tail : List (Fin 34 × Word))
    (padPolls absorbPolls : Nat) (n : Byte) : List Event :=
  hostRun clearPolls .keccakClear ++ chunks.flatMap (fun c => hostWriteKB c.1 ++ hostRun c.2 .keccakAbsorb)
    ++ hostWriteKBHalves tail ++ hostSha3Final padPolls absorbPolls n

end Sys2Proof.Machine
end

