-- ==== Sys2Proof/Tests/Slice0.lean ====
section
/-! SUPPORT. The model's own tests, each value from spec/95_test_vectors.md (the vector's number stands beside it) or from the rule
named, and the witnesses that the hypotheses of the statements can be met. -/

namespace Sys2Proof.Tests

open Sys2Proof.Machine

/-- The state an outcome goes on with, if it does. -/
def after (o : Result) : Option State :=
  match o with
  | .next s => some s
  | .fault _ => none
  | .refused _ => none

/-- The reset state with steps laid out. -/
def idle (es : List Event) : State := { State.reset with inbox := es }

/-- The reset state with a command word pending and steps laid out. -/
def pending (c : Word) (es : List Event) : State := { State.reset with PEND := some c, inbox := es }

/-- The reset state with steps laid out, after they have been taken. -/
def ran (es : List Event) : Option State := after (runInbox State.reset es)

/-! ## Well-formedness: ill-formed terms refused (30_encoding.md R126) -/

theorem test_wellFormed_refuses_sha1Pad_64 : ¬(Instr.sha1Pad 64).WellFormed := by decide
theorem test_wellFormed_refuses_sha3Pad_136 : ¬(Instr.sha3Pad 136).WellFormed := by decide
theorem test_wellFormed_accepts_largest : (Instr.sha1Pad 63).WellFormed ∧ (Instr.sha3Pad 135).WellFormed := by decide

/-! ## Decoding: words written out from the encoding table (R124, R125; V80) -/

theorem test_decode_sha1Init : decode 0b00000000000000000000000000000001#32 = .ok .sha1Init := by decide
theorem test_decode_sha1Compress : decode 0b00000000000000000000000000000010#32 = .ok .sha1Compress := by decide
theorem test_decode_sha1Pad : decode 0b00000000000000000000001100000011#32 = .ok (.sha1Pad 3) ∧
    decode 0x00003F03#32 = .ok (.sha1Pad 63) := by decide
theorem test_decode_sha1Padlen : decode 0b00000000000000000000000000000100#32 = .ok .sha1Padlen := by decide
theorem test_decode_keccakClear : decode 0b00000000000000000000000000010000#32 = .ok .keccakClear := by decide
theorem test_decode_keccakPermute : decode 0b00000000000000000000000000010001#32 = .ok .keccakPermute := by decide
theorem test_decode_keccakAbsorb : decode 0b00000000000000000000000000010010#32 = .ok .keccakAbsorb := by decide
theorem test_decode_sha3Pad : decode 0b00000000000000000000000100010011#32 = .ok (.sha3Pad 1) ∧
    decode 0x00008713#32 = .ok (.sha3Pad 135) := by decide

/-- V80, the words that are no command. -/
theorem test_decode_refuses :
    decode 0x00000000#32 = .error .illegalOpcode ∧ decode 0x00000005#32 = .error .illegalOpcode ∧
    decode 0x000000FF#32 = .error .illegalOpcode ∧ decode 0x00000101#32 = .error .reservedBits ∧
    decode 0x00010001#32 = .error .reservedBits ∧ decode 0x00FF0003#32 = .error .reservedBits ∧
    decode 0x80000013#32 = .error .reservedBits ∧ decode 0x00004003#32 = .error .badCount ∧
    decode 0x00008813#32 = .error .badCount ∧ decode 0x0000FF13#32 = .error .badCount := by decide

theorem test_decodeTableWord : decodeTableWord 32 0x3F03 = some (.sha1Pad 63) ∧ decodeTableWord 32 0x4003 = none := by decide

/-- The encoding rows of R125: no word matches two of them. -/
theorem test_encodingRows_disjoint :
    encodingRows.Pairwise fun r q => r.1 &&& q.2 ≠ q.1 ∧ q.1 &&& r.2 ≠ r.1 := by decide

/-! ## Primitives (V30 to V39) -/

theorem test_rotations : rotl 0x80000001#32 1 = 0x00000003#32 ∧ rotl 0x80000001#32 32 = 0x80000001#32 ∧
    rotl 0x8000000000000000#64 1 = 1#64 ∧ rotr 0x00000003#32 1 = 0x80000001#32 := by decide
theorem test_bit_access : getBitLE 0x00000004#32 2 = some true ∧ getBitBE 0x80000000#32 0 = some true ∧
    setBitBE 0#32 0 = some 0x80000000#32 ∧ toggleBitLE 0xFF#32 0 = some 0xFE#32 ∧ getBitLE 0#32 32 = none := by decide
theorem test_reversals : reverseBits 0x12345678#32 = 0x1E6A2C48#32 ∧ reverseBitsWithinBytes 0x06000080#32 = 0x60000001#32 ∧
    reverseBitsWithinBytes 0x12345678#32 = 0x482C6A1E#32 ∧ reverseByteOrder 0x11223344#32 = 0x44332211#32 := by decide +kernel
theorem test_hex : hexEncode 0x0A0B0C0D#32 = ['0', 'a', '0', 'b', '0', 'c', '0', 'd'] ∧
    hexDecode 32 ['f', 'f'] = some 0xFF#32 ∧ hexDecode 32 ['G'] = none := by decide +kernel
theorem test_modulo : modulo (-6) 5 = 4 ∧ modulo (-1) 5 = 4 ∧ modulo 5 5 = 0 := by decide

/-! ## The SHA-1 unit -/

/-- V40. -/
theorem test_sha1F_sha1K : sha1F 0 0xF0F0F0F0 0xCCCCCCCC 0xAAAAAAAA = 0xCACACACA ∧
    sha1F 20 0xF0F0F0F0 0xCCCCCCCC 0xAAAAAAAA = 0x96969696 ∧ sha1F 59 0xF0F0F0F0 0xCCCCCCCC 0xAAAAAAAA = 0xE8E8E8E8 ∧
    sha1F 60 0xF0F0F0F0 0xCCCCCCCC 0xAAAAAAAA = 0x96969696 ∧ sha1K 19 = 0x5A827999 ∧ sha1K 20 = 0x6ED9EBA1 ∧
    sha1K 40 = 0x8F1BBCDC ∧ sha1K 79 = 0xCA62C1D6 := by decide

/-- V44. -/
theorem test_sha1Init : (after (exec .sha1Init { State.reset with H := Vector.replicate 5 7, XBLK := true })).map
    (fun t => (t.H, t.XBLK, t.DONE)) =
      some (#v[0x67452301, 0xEFCDAB89, 0x98BADCFE, 0x10325476, 0xC3D2E1F0], false, true) := by decide

/-- V43, the padded "abc" block from the IV. -/
theorem test_sha1Compress_abc :
    (after (exec .sha1Compress { State.reset with
      MB := ((Vector.replicate 16 0).set 0 0x61626380).set 15 0x18 })).map (fun t => t.H) =
      some #v[0xA9993E36, 0x4706816A, 0xBA3E2571, 0x7850C26C, 0x9CD0D89D] := by decide +kernel

/-- V43, all ones: every sum wraps. -/
theorem test_sha1Compress_ones :
    (after (exec .sha1Compress { State.reset with H := Vector.replicate 5 0xFFFFFFFF, MB := Vector.replicate 16 0xFFFFFFFF })).map
      (fun t => t.H) = some #v[0x3F48159B, 0x2DCE51FA, 0x8A1E930A, 0x02083B68, 0xEF70D6E8] := by decide +kernel

/-- V45 c, with bytes 0x10 to 0x46: the 0x80 in byte 55 and the length directly after it. -/
theorem test_sha1Pad_55 :
    (after (exec (.sha1Pad 55) { State.reset with
      LEN := 440, MB := mbOfBytes fun p => BitVec.ofNat 8 (0x10 + p.val) })).map (fun t => (t.MB, t.XBLK)) =
      some (#v[0x10111213, 0x14151617, 0x18191A1B, 0x1C1D1E1F, 0x20212223, 0x24252627, 0x28292A2B, 0x2C2D2E2F,
        0x30313233, 0x34353637, 0x38393A3B, 0x3C3D3E3F, 0x40414243, 0x44454680, 0x00000000, 0x000001B8], false) := by
  decide +kernel

/-- V45 d: no room for the length. -/
theorem test_sha1Pad_56 :
    (after (exec (.sha1Pad 56) { State.reset with
      LEN := 448, MB := mbOfBytes fun p => BitVec.ofNat 8 (0x10 + p.val) })).map
      (fun t => (t.MB[13], t.MB[14], t.MB[15], t.XBLK)) = some (0x44454647, 0x80000000, 0x00000000, true) := by
  decide +kernel

/-- V46. -/
theorem test_sha1Padlen :
    (after (exec .sha1Padlen { State.reset with
      LEN := 0x0123456789ABCDEF, MB := Vector.replicate 16 7, XBLK := true })).map
      (fun t => (t.MB[0], t.MB[13], t.MB[14], t.MB[15], t.XBLK)) = some (0, 0, 0x01234567, 0x89ABCDEF, false) := by decide

/-! ## The Keccak unit -/

/-- A 25-lane array from its first lanes, the others 0. -/
def lanes (l : List Lane) : Lanes := Vector.ofFn fun i => l.getD i.val 0

/-- V60. -/
theorem test_theta : theta (lanes [0x8000000000000000]) =
    ofLanes (fun x y => if x = 1 then 0x8000000000000000 else if x = 4 then 1
      else if x = 0 ∧ y = 0 then 0x8000000000000000 else 0) := by decide +kernel

/-- V61, and the walk of R262 on the same input. -/
theorem test_rho : (rho (Vector.replicate 25 1))[2] = 0x4000000000000000 ∧ (rho (Vector.replicate 25 1))[24] = 0x4000 ∧
    rhoWalk (Vector.replicate 25 1) = rho (Vector.replicate 25 1) := by decide +kernel

/-- V62. -/
theorem test_pi : Sys2Proof.Machine.pi (Vector.ofFn fun i : Fin 25 => BitVec.ofNat 64 i.val) =
    lanes ([0, 6, 12, 18, 24, 3, 9, 10, 16, 22, 1, 7, 13] ++ [19, 20, 4, 5, 11, 17, 23, 2, 8, 14, 15, 21]) := by
  decide +kernel

/-- V63. -/
theorem test_chi : chi (lanes [1, 2, 4, 8, 0x10]) = lanes [5, 0xA, 0x14, 9, 0x12] := by decide +kernel

/-- V65, two rounds. -/
theorem test_two_rounds : let a := keccakRound (keccakRound (Vector.replicate 25 0) 0) 1
    a[0] = 0x8083 ∧ a[1] = 0x100000000000 ∧ a[4] = 0x100000008000 ∧ a[15] = 0x10000400 ∧ a[24] = 4 := by decide +kernel

/-- V68. -/
theorem test_keccakClear : (after (exec .keccakClear { State.reset with S := Vector.replicate 25 9 })).map (fun t => t.S) =
    some (Vector.replicate 25 0) := by decide

/-- V22. -/
theorem test_keccakPermute : (after (exec .keccakPermute State.reset)).map (fun t => (t.S[0], t.S[7], t.S[24])) =
    some (0xF1258F7940E1DDE7, 0x8C5BDA0CD6192E76, 0xEAF1FF7B5CECA249) := by decide +kernel

/-- V67, the block of V66 case a. -/
theorem test_keccakAbsorb :
    (after (exec .keccakAbsorb { State.reset with
      KB := ((Vector.replicate 17 0).set 0 6).set 16 0x8000000000000000 })).map
      (fun t => (t.S[0], t.S[1], t.S[2], t.S[3], t.S[16])) =
      some (0x66D71EBFF8C6FFA7, 0x62D661A05647C151, 0xFA493BE44DFF80F5, 0x4A43F8804B0AD882, 0xC2C6B96032FAF11E) := by
  decide +kernel

/-- V66 c. -/
theorem test_sha3Pad_135 :
    (after (exec (.sha3Pad 135) { State.reset with KB := Vector.replicate 17 0xFFFFFFFFFFFFFFFF })).map
      (fun t => (t.KB[15], t.KB[16])) = some (0xFFFFFFFFFFFFFFFF, 0x86FFFFFFFFFFFFFF) := by decide +kernel

/-- V66 e. -/
theorem test_sha3Pad_8 :
    (after (exec (.sha3Pad 8) { State.reset with KB := Vector.replicate 17 0xFFFFFFFFFFFFFFFF })).map
      (fun t => (t.KB[0], t.KB[1], t.KB[15], t.KB[16])) = some (0xFFFFFFFFFFFFFFFF, 6, 0, 0x8000000000000000) := by
  decide +kernel

/-! ## The bus, the errors, the interrupt output and reset -/

/-- V81: a write to the high half of S[0] and the reads of both halves; misaligned, narrow and unmapped accesses. -/
theorem test_bus :
    (ran [.write .bits32 0x104 0xDEADBEEF, .read .bits32 0x104]).map (fun t => (t.reply, t.S[0])) =
      some (some (.data 0xDEADBEEF), 0xDEADBEEF00000000) ∧
    (ran [.read .bits32 0x002]).map (fun t => t.reply) = some (some .busError) ∧
    (ran [.read .bits8 0x000]).map (fun t => t.reply) = some (some .busError) ∧
    (ran [.read .bits32 0x3FC]).map (fun t => t.reply) = some (some .busError) ∧
    (ran [.read .bits32 0x000]).map (fun t => t.reply) = some (some (.data 0x47564831)) := by decide +kernel

/-- V84: the first error is kept until it is cleared. -/
theorem test_first_error_is_kept :
    (ran [.write .bits32 0x008 0x00000000, .write .bits32 0x008 0x00004003]).map State.statusWord = some 0x00000104 ∧
    (ran [.write .bits32 0x008 0x00000000, .write .bits32 0x004 0x00000004, .write .bits32 0x008 0x00004003]).map
      State.statusWord = some 0x00000304 := by decide +kernel

/-- V83. -/
theorem test_status_write_clears :
    ({ State.reset with DONE := true, XBLK := true }.writeStatus 0xFFFFFFFF).statusWord = 0x00000008 ∧
    ((pending 1 []).writeStatus 0xFFFFFFFF).statusWord = 0x00000001 ∧
    ({ State.reset with DONE := true, ERR := true, ERRCODE := 1 }.writeStatus 0x00000002).statusWord = 0x00000104 := by decide

/-- V86: writes while `keccak.clear` is pending are discarded, and the command still completes. -/
theorem test_busy_hazards :
    (after (runInbox { State.reset with S := Vector.replicate 25 3 }
      [.write .bits32 0x008 0x00000010, .write .bits32 0x200 1, .write .bits32 0x008 0x00000001, .read .bits32 0x004])).map
      (fun t => (t.reply, t.KB[0], t.S[0])) = some (some (.data 0x00000405), 0, 3) ∧
    (after (runInbox { State.reset with S := Vector.replicate 25 3 }
      [.write .bits32 0x008 0x00000010, .write .bits32 0x008 0x00000001, .complete])).map
      (fun t => (t.S[0], t.statusWord)) = some (0, 0x00000406) := by decide +kernel

/-- V85. -/
theorem test_irq :
    State.irq { State.reset with DONE_IE := true, ERR_IE := true } = false ∧
    State.irq { State.reset with DONE := true, ERR_IE := true } = false ∧
    State.irq { State.reset with DONE := true, DONE_IE := true } = true ∧
    State.irq { State.reset with ERR := true, DONE_IE := true } = false ∧
    State.irq { State.reset with ERR := true, ERR_IE := true } = true := by decide

/-- 70_reset_and_hazards.md R370: a pending command is abandoned, and DONE is not set for it. -/
theorem test_reset_abandons_the_command :
    (after (step { pending 1 [.reset] with H := Vector.replicate 5 0, LEN := 7 })) = some State.reset := by decide +kernel

/-- The host's question: the placed word runs as the very next step, also with steps laid out. -/
theorem test_withFetchWord_runs (s : State) (h : s.inbox = []) :
    step (s.withFetchWord 32 0x3F03) = exec (.sha1Pad 63) (s.withFetchWord 32 0x3F03) := by
  have hi : (s.withFetchWord 32 0x3F03).inbox = [] := by simp [State.withFetchWord, h]
  rw [step_nil hi]
  rfl

/-- The program of 95_test_vectors.md P1 up to its padding, one poll a wait: MB and LEN as its end state has them. -/
theorem test_host_program_pads :
    (ran (hostRun 1 .sha1Init ++ hostLdlen 24 ++ [hostWr (.mb 0) 0x61626300] ++ hostRun 1 (.sha1Pad 3))).map
      (fun t => (t.MB[0], t.MB[15], t.LEN, t.reply)) = some (0x61626380, 0x18, 24, some (.data 2)) := by decide +kernel

/-- The transactions of P1 (95_test_vectors.md) before its reads of H, with no poll that finds BUSY = 1: MB0 is the only word
written. -/
theorem test_hostSha1_P1 : hostSha1 0 24 [] [(0, 0x61626300)] 0 ⟨0, 0, 0, 0⟩ 3 =
    [.write .bits32 0x008 0x00000001, .complete, .read .bits32 0x004, .write .bits32 0x010 0x00000018,
      .write .bits32 0x014 0x00000000, .write .bits32 0x040 0x61626300, .write .bits32 0x008 0x00000303, .complete,
      .read .bits32 0x004, .write .bits32 0x008 0x00000002, .complete, .read .bits32 0x004] := by decide +kernel

/-- The transactions of P2 before its reads of S: no half of KB is written. -/
theorem test_hostSha3_P2 : hostSha3 0 [] [] 0 0 0 =
    [.write .bits32 0x008 0x00000010, .complete, .read .bits32 0x004, .write .bits32 0x008 0x00000013, .complete,
      .read .bits32 0x004, .write .bits32 0x008 0x00000012, .complete, .read .bits32 0x004] := by decide +kernel

/-- 10_state.md R50: half u of KB stands at 0x200 + 4u. -/
theorem test_kbHalf_offset : ∀ u : Fin 34, (kbHalf u).offset.toNat = 0x200 + 4 * u.val := by decide

/-! ## Witnesses: concrete states and operands that meet the hypotheses of the statements, clause by clause, at the ends of the
ranges -/

theorem witness_DecodeChecksInTheOrderOfR128 :
    ((0x00000005 : Word).toNat % 256 ∉ [0x01, 0x02, 0x03, 0x04, 0x10, 0x11, 0x12, 0x13]) ∧
    ((0x00010013 : Word).toNat % 256 = 0x13 ∧ (0x00010013 : Word).toNat / 65536 ≠ 0) ∧
    ((0x00000112 : Word).toNat % 256 = 0x12 ∧ (0x00000112 : Word).toNat / 256 % 256 ≠ 0 ∧
      (0x00000112 : Word).toNat / 65536 = 0) ∧
    ((0x00004003 : Word).toNat % 256 = 0x03 ∧ (0x00004003 : Word).toNat / 256 % 256 = 64 ∧
      (0x00004003 : Word).toNat / 65536 = 0) ∧
    ((0x00008813 : Word).toNat % 256 = 0x13 ∧ (0x00008813 : Word).toNat / 256 % 256 = 136 ∧
      (0x00008813 : Word).toNat / 65536 = 0) ∧
    ((0x00003F03 : Word).toNat % 256 = 0x03 ∧ (0x00003F03 : Word).toNat / 256 % 256 = 63 ∧
      (0x00003F03 : Word).toNat / 65536 = 0) ∧
    ((0x00008713 : Word).toNat % 256 = 0x13 ∧ (0x00008713 : Word).toNat / 256 % 256 = 135 ∧
      (0x00008713 : Word).toNat / 65536 = 0) ∧
    (∀ opc ∈ [0x01, 0x02, 0x04, 0x10, 0x11, 0x12], (BitVec.ofNat 32 opc).toNat % 256 = opc ∧
      (BitVec.ofNat 32 opc).toNat / 256 = 0) := by decide

theorem witness_EngineStepRunsThePendingCommand :
    (pending 0x00008713 []).PEND = some 0x00008713 ∧ decode 0x00008713 = .ok (.sha3Pad 135) ∧
    (pending 0x00008713 []).inbox = [] ∧ (pending 0x00008713 [.complete, .reset]).inbox = .complete :: [.reset] := by decide

theorem witness_CmdWriteRefusesOrAccepts :
    (idle [.write .bits32 0x008 0x00003F03]).inbox = .write .bits32 0x008 0x00003F03 :: [] ∧
    (idle [.write .bits32 0x008 0x00003F03]).busy = false ∧
    (pending 1 [.write .bits32 0x008 0x00003F03]).busy = true ∧ decode 0x00003F03 = .ok (.sha1Pad 63) ∧
    decode 0x00000000 = .error .illegalOpcode ∧ decode 0xFFFF0013 = .error .reservedBits ∧
    decode 0x00004003 = .error .badCount := by decide

theorem witness_EveryCommandCompletesWithoutError :
    Instr.sha1Init.WellFormed ∧ Instr.sha1Compress.WellFormed ∧ (Instr.sha1Pad 63).WellFormed ∧ Instr.sha1Padlen.WellFormed ∧
    Instr.keccakClear.WellFormed ∧ Instr.keccakPermute.WellFormed ∧ Instr.keccakAbsorb.WellFormed ∧
    (Instr.sha3Pad 135).WellFormed := by decide

theorem witness_CommandsChangeOnlyWhatTheyWrite :
    (Instr.sha1Pad 63).WellFormed ∧ (after (exec (.sha1Pad 63) State.reset)).isSome = true ∧ Reg.h 4 ≠ .status ∧
    (Instr.sha1Pad 63).writes (.h 4) = false ∧ (Instr.sha3Pad 135).WellFormed ∧
    (after (exec (.sha3Pad 135) State.reset)).isSome = true ∧ (Instr.sha3Pad 135).writesXblk = false := by decide +kernel

theorem witness_OutOfRangeCountRaisesBadCount : 63 < (64 : Byte).toNat ∧ 135 < (136 : Byte).toNat := by decide

theorem witness_Sha1CompressAddsTheWorkingRegisters (s : State) :
    ∃ r, r = sha1Rounds (schedule s.MB) ⟨s.H[0], s.H[1], s.H[2], s.H[3], s.H[4]⟩ 80 (Nat.le_refl 80) := ⟨_, rfl⟩

/-- Rounds at the ends of the four bands; the other hypotheses name values. -/
theorem witness_RoundsRunInOrder (w : Vector Word 80) (r : Work) :
    ∀ t ∈ [0, 19, 20, 39, 40, 59, 60, 79], ∃ (ht : t < 80) (p q : Work),
      p = sha1Rounds w r t (Nat.le_of_lt ht) ∧ q = sha1Rounds w r (t + 1) ht := by
  intro t ht
  exact ⟨by revert t; decide, _, _, rfl, rfl⟩

theorem witness_ScheduleExpandsTheBlock : (15 < 16) ∧ (16 ≤ 16 ∧ 16 < 80) ∧ (16 ≤ 79 ∧ 79 < 80) := by decide

theorem witness_Sha1PadWritesTheFinalBlock :
    ∀ n ∈ [(0 : Byte), 55, 56, 63], n.toNat ≤ 63 ∧ ((55 : Fin 64).val < 56 ∨ 56 ≤ n.toNat) := by decide

theorem witness_Sha3PadWritesTheFinalBlock :
    ∀ n ∈ [(0 : Byte), 134, 135], n.toNat ≤ 135 ∧ (134 : Fin 136).val < 135 := by decide

theorem witness_KeccakAbsorbXorsThenPermutes : State.reset.KB = Vector.replicate 17 0 ∧ 16 < 17 ∧ 17 ≤ 24 ∧ 24 < 25 :=
  ⟨rfl, by decide⟩

theorem witness_ThetaXorsTheColumnParities (a : Lanes) : ∃ par d : Nat → Lane,
    (∀ (x : Nat) (_ : x < 5), par x = a[x] ^^^ a[5 + x] ^^^ a[10 + x] ^^^ a[15 + x] ^^^ a[20 + x]) ∧
    (∀ (x : Nat) (_ : x < 5), d x = par ((x + 4) % 5) ^^^ rotl (par ((x + 1) % 5)) 1) :=
  ⟨fun x => if h : x < 5 then a[x] ^^^ a[5 + x] ^^^ a[10 + x] ^^^ a[15 + x] ^^^ a[20 + x] else 0, _,
    fun x hx => by simp [hx], fun _ _ => rfl⟩

theorem witness_BusErrorsChangeNothing :
    (idle [.read .bits64 0x000]).inbox = .read .bits64 0x000 :: [] ∧ BusSize.bits64 ≠ .bits32 ∧
    (idle [.write .bits32 0x3FF 1]).inbox = .write .bits32 0x3FF 1 :: [] ∧ (0x3FF : Offset).toNat % 4 ≠ 0 ∧
    ∀ off ∈ [(0x018 : Offset), 0x01C, 0x034, 0x03C, 0x080, 0x0FC, 0x1C8, 0x1FC, 0x288, 0x3FC],
      (0x018 ≤ off.toNat ∧ off.toNat ≤ 0x01F) ∨ (0x034 ≤ off.toNat ∧ off.toNat ≤ 0x03F) ∨
      (0x080 ≤ off.toNat ∧ off.toNat ≤ 0x0FF) ∨ (0x1C8 ≤ off.toNat ∧ off.toNat ≤ 0x1FF) ∨
      (0x288 ≤ off.toNat ∧ off.toNat ≤ 0x3FF) := by decide

theorem witness_ReadsReturnTheRegister :
    (idle [.read .bits32 (Reg.kbHi 16).offset]).busy = false ∧
    (idle [.read .bits32 (Reg.kbHi 16).offset]).inbox = .read .bits32 (Reg.kbHi 16).offset :: [] ∧
    (pending 1 [.read .bits32 Reg.status.offset]).busy = true ∧ Reg.status.isData = false ∧
    (pending 1 [.read .bits32 Reg.status.offset]).inbox = .read .bits32 Reg.status.offset :: [] := by decide

theorem witness_BusyDataReadsAreUnspecified :
    ∀ r ∈ [Reg.kbHi 16, .lenLo, .id, .status, .cmd, .irqEn],
      (pending 1 [.read .bits32 r.offset]).busy = true ∧
      (pending 1 [.read .bits32 r.offset]).inbox = .read .bits32 r.offset :: [] ∧
      (r.isData = true ∨ r = .id ∨ r = .status ∨ r = .cmd ∨ r = .irqEn) := by decide

theorem witness_StatusWritesClearDoneAndErr :
    (pending 1 [.write .bits32 0x004 6]).inbox = .write .bits32 0x004 6 :: [] ∧ (6 : Word).getLsbD 1 = true ∧
    (6 : Word).getLsbD 2 = true := by decide

theorem witness_IrqEnHoldsTwoEnables :
    (pending 1 [.write .bits32 0x00C 0xFFFFFFFF]).inbox = .write .bits32 0x00C 0xFFFFFFFF :: [] := rfl

theorem witness_IdIsConstant :
    (pending 1 [.read .bits32 0x000]).inbox = .read .bits32 0x000 :: [] ∧
    (pending 1 [.write .bits32 0x000 5]).inbox = .write .bits32 0x000 5 :: [] := ⟨rfl, rfl⟩

theorem witness_IdleDataWritesChangeOneRegister :
    (idle [.write .bits32 (Reg.sHi 24).offset 5]).busy = false ∧ (Reg.sHi 24).isData = true ∧ Reg.sLo 24 ≠ .sHi 24 ∧
    (idle [.write .bits32 (Reg.sHi 24).offset 5]).inbox = .write .bits32 (Reg.sHi 24).offset 5 :: [] := by decide

theorem witness_BusyWritesAreDiscarded :
    ∀ r ∈ [Reg.cmd, .lenLo, .kbHi 16, .status, .irqEn, .id],
      (pending 1 [.write .bits32 r.offset 7]).busy = true ∧
      (pending 1 [.write .bits32 r.offset 7]).inbox = .write .bits32 r.offset 7 :: [] ∧
      (r = .cmd ∨ r.isData = true ∨ r = .status ∨ r = .irqEn ∨ r = .id) := by decide

theorem witness_ResetInputResetsEveryState : (pending 1 [.reset, .complete]).inbox = .reset :: [.complete] := rfl

/-- A pending command meets the invariant, and the engine's next step runs it. -/
theorem witness_EveryStepKeepsTheInvariant :
    (pending 0x00000010 []).Inv ∧ (after (step (pending 0x00000010 []))).isSome = true :=
  ⟨⟨(fun c hc => ⟨.keccakClear, (by cases hc; decide)⟩), fun _ => rfl, (by decide), (by decide)⟩, by decide +kernel⟩

theorem witness_EveryStepAnswersANextState : (pending 0x00000010 []).Inv := witness_EveryStepKeepsTheInvariant.1

theorem witness_HostCannotTouchAPendingCommand :
    (pending 1 []).busy = true ∧
    ∀ e ∈ [Event.write .bits32 0x020 5, .write .bits32 0x008 0x10, .read .bits32 0x100], e.isHost = true := by decide +kernel

theorem witness_CompletionMayComeAfterAnyHostSteps :
    State.reset.busy = false ∧ decode 0x00003803 = .ok (.sha1Pad 56) ∧
    ∀ e ∈ [Event.write .bits32 0x040 5, .read .bits32 0x004], e.isHost = true := by decide +kernel

theorem witness_OnlyCompletionSetsDone :
    (pending 0x00000010 []).DONE = false ∧ (after (step (pending 0x00000010 []))).map (fun t => t.DONE) = some true := by
  decide +kernel

theorem witness_XblkAndLenHaveFewWriters :
    (∀ rest, (pending 0x00003803 []).inbox ≠ .reset :: rest) ∧ (pending 0x00003803 []).XBLK = false ∧
    (after (step (pending 0x00003803 []))).map (fun t => t.XBLK) = some true ∧
    (after (step (idle [.write .bits32 0x014 1]))).map (fun t => t.LEN) = some 0x0000000100000000 :=
  ⟨(fun _ h => by cases h), rfl, (by decide +kernel), (by decide +kernel)⟩

/-- The last bit of the last byte of a lane, and a width of one byte. -/
theorem witness_RotationAndReversalLaws :
    (63 < 64 ∧ 64 % 8 = 0 ∧ 7 < 64 / 8 ∧ 7 < 8) ∧ (0 < 8 ∧ 8 % 8 = 0 ∧ 0 < 8 / 8) := by decide

/-- The precondition of R213 at an empty message and at the shortest one padded to two blocks. -/
theorem witness_Sha1PaddingFillsWholeBlocks :
    8 * ([] : List Byte).length < 2 ^ 64 ∧ 8 * (List.replicate 56 (7 : Byte)).length < 2 ^ 64 := by simp

theorem witness_primitives :
    (31 < 32 ∧ 63 < 64) ∧ (∀ n ∈ [0, 31], n < 32) ∧ (∀ n ∈ [0, 63], n < 64) ∧ (0 < 32 ∧ 32 ≤ 32) := by decide

theorem witness_DigestsReadOutThroughTheWindow : ∃ be le : Word → List Byte,
    (∀ v, be v = [v.extractLsb' 24 8, v.extractLsb' 16 8, v.extractLsb' 8 8, v.extractLsb' 0 8]) ∧
    (∀ v, le v = [v.extractLsb' 0 8, v.extractLsb' 8 8, v.extractLsb' 16 8, v.extractLsb' 24 8]) :=
  ⟨_, _, fun _ => rfl, fun _ => rfl⟩

theorem witness_Sha3PaddingFillsWholeBlocks :
    (List.replicate 135 (7 : Byte)).length % 136 = 135 ∧ (List.replicate 134 (7 : Byte)).length % 136 ≠ 135 ∧
    ([] : List Byte).length % 136 ≠ 135 := by simp

/-- A message of n bytes in MB, as the host leaves it: 55 bytes give XBLK = 0, 56 bytes XBLK = 1. -/
theorem witness_Sha1FinalCommandsComputeTheDigest : ∀ len ∈ [55, 56],
    let m := List.replicate len (0x61 : Byte)
    let s : State := { State.reset with LEN := BitVec.ofNat 64 (8 * len), MB := mbOfList m }
    8 * m.length < 2 ^ 64 ∧ len = m.length % 64 ∧ s.LEN = BitVec.ofNat 64 (8 * m.length) ∧
    s.H = sha1Chain sha1IV (blocksOf 64 (m.length / 64) m) ∧
    (∀ p : Fin 64, p.val < len → mbByte s.MB p = m.getD (64 * (m.length / 64) + p.val) 0) ∧
    (after (exec (.sha1Pad (BitVec.ofNat 8 len)) s)).map (fun t => t.XBLK) = some (decide (len = 56)) := by
  decide +kernel

theorem witness_Sha3FinalCommandsComputeTheDigest : ∀ len ∈ [0, 135],
    let m := List.replicate len (0x61 : Byte)
    let s : State := { State.reset with KB := kbOfList m }
    len = m.length % 136 ∧ s.S = (blocksOf 136 (m.length / 136) m).foldl absorb (Vector.replicate 25 0) ∧
    (∀ p : Fin 136, p.val < len → kbByte s.KB p = m.getD (136 * (m.length / 136) + p.val) 0) := by
  decide +kernel

end Sys2Proof.Tests
end

/-! Proofs of the statements about the state, 1: the rules that the statements of this part share. What a step is when the
next entry of the inbox reaches a register, what an engine's step leaves, and what the bits of the control words are. -/

namespace Sys2Proof

/-- The decoder answers commands of the hardware only: the count check of 30_encoding.md R128. -/
theorem wellFormed_of_decode {c : Word} {i : Instr} (h : decode c = .ok i) : i.WellFormed := by
  unfold decode at h
  split at h
  · cases h
  · split_ifs at h with hr hz hw
    cases h
    exact hw

/-- The commands that write XBLK, by name (10_state.md R38). -/
theorem Instr.writesXblk_cases {i : Instr} (h : i.writesXblk = true) :
    i = .sha1Init ∨ (∃ n, i = .sha1Pad n) ∨ i = .sha1Padlen := by
  cases i with
  | sha1Init => exact .inl rfl
  | sha1Pad n => exact .inr (.inl ⟨n, rfl⟩)
  | sha1Padlen => exact .inr (.inr rfl)
  | _ => cases h

end Sys2Proof

namespace Sys2Proof.Machine

/-! ### Steps whose entry reaches a register -/

/-- A 32-bit write to a register's offset performs the write and is answered `Ok` (20_memory.md R86). -/
theorem step_write_reg {s : State} {v : Word} {rest : List Event} (r : Reg)
    (h : s.inbox = .write .bits32 r.offset v :: rest) :
    step s = .next ((State.writeReg r v { s with inbox := rest }).respond .ok) := by
  rw [step_write h, State.hostWrite_offset]

/-- A 32-bit read of a control register is exact, busy or not (20_memory.md R85). -/
theorem step_read_control {s : State} {rest : List Event} (r : Reg) (hr : r.isData = false)
    (h : s.inbox = .read .bits32 r.offset :: rest) :
    step s = .next (State.respond (.data (s.readReg r)) { s with inbox := rest }) := by
  rw [step_read h, State.hostRead_offset _ _ (by rw [hr, Bool.and_false])]
  cases r <;> rfl

/-! ### The engine's step -/

/-- With a legal word in PEND the engine's step is the command's meaning (10_state.md R44). -/
theorem engineStep_of_pending {s : State} {c : Word} {i : Instr} (hp : s.PEND = some c) (hd : decode c = .ok i) :
    engineStep s = exec i s := by
  simp only [engineStep, State.pending, hp, Option.map_some, hd]

/-- The next step is the engine's: its completion is laid out next, or nothing is laid out (log entry 2). -/
def State.EngineNext (s : State) : Prop := s.inbox = [] ∨ ∃ rest, s.inbox = .complete :: rest

/-- Everything a step that answers a next state can be, the engine's two ways of getting the step taken together. -/
theorem step_next_cases {s t : State} (h : step s = .next t) :
    (s.EngineNext ∧ ∃ rest, engineStep { s with inbox := rest } = .next t) ∨
    (∃ rest, s.inbox = .reset :: rest ∧ t = State.applyReset { s with inbox := rest }) ∨
    (∃ z off rest, s.inbox = .read z off :: rest ∧ t = State.hostRead z off { s with inbox := rest }) ∨
    (∃ z off v rest, s.inbox = .write z off v :: rest ∧ t = State.hostWrite z off v { s with inbox := rest }) := by
  obtain ⟨hi, hs⟩ | ⟨rest, hi, hs⟩ | ⟨rest, hi, hs⟩ | ⟨z, off, rest, hi, hs⟩ | ⟨z, off, v, rest, hi, hs⟩ := step_cases s
    <;> rw [hs] at h
  · exact .inl ⟨.inl hi, s.inbox, h⟩
  · exact .inl ⟨.inr ⟨rest, hi⟩, rest, h⟩
  · exact .inr (.inl ⟨rest, hi, (Host.Outcome.next.inj h).symm⟩)
  · exact .inr (.inr (.inl ⟨z, off, rest, hi, (Host.Outcome.next.inj h).symm⟩))
  · exact .inr (.inr (.inr ⟨z, off, v, rest, hi, (Host.Outcome.next.inj h).symm⟩))

/-- What an engine's step leaves: the same state if nothing is pending, else the completed state of a legal command, in which
only the data registers that commands write and XBLK may differ, and XBLK only if the command writes it. -/
theorem engineStep_next_cases {s t : State} (h : engineStep s = .next t) :
    (s.PEND = none ∧ t = s) ∨
    ∃ c i x hs mb l kb, s.PEND = some c ∧ decode c = .ok i ∧
      t = State.complete { s with XBLK := x, H := hs, MB := mb, S := l, KB := kb } ∧
      (i.writesXblk = false → x = s.XBLK) := by
  obtain ⟨hp, he⟩ | ⟨c, i, hp, hd, he⟩ | ⟨c, e, hp, hd, he⟩ := engineStep_cases s <;> rw [he] at h
  · exact .inl ⟨hp, (Host.Outcome.next.inj h).symm⟩
  · obtain ⟨x, hs, mb, l, kb, hex, hx, -⟩ := exec_wellFormed i s (wellFormed_of_decode hd)
    rw [hex] at h
    exact .inr ⟨c, i, x, hs, mb, l, kb, hp, hd, (Host.Outcome.next.inj h).symm, hx⟩
  · cases h

/-! ### The bits of the control words -/

/-- A flag placed at bit n of a word is that bit and no other. -/
theorem getLsbD_flag (b : Bool) (n k : Nat) (hn : n < 32) :
    ((BitVec.ofBool b).setWidth 32 <<< n).getLsbD k = (decide (k = n) && b) := by
  by_cases hk : k = n
  · simp [hk, hn]
  · simp [hk, BitVec.getLsbD_ofBool]
    omega

/-- ERRCODE placed at bits 11:8 of a word. -/
theorem getLsbD_errcodeField (e : BitVec 4) (k : Nat) :
    (e.setWidth 32 <<< 8).getLsbD k = (decide (8 ≤ k ∧ k ≤ 11) && e.getLsbD (k - 8)) := by
  by_cases hk : 8 ≤ k ∧ k ≤ 11
  · simp [hk, show k < 32 by omega, show ¬k < 8 by omega]
  · by_cases h8 : k < 8
    · simp [h8, Nat.not_le_of_lt h8]
    · simp [hk, BitVec.getLsbD_of_ge e (k - 8) (by omega)]

/-- The bits of STATUS (10_state.md R34, R51). -/
theorem State.getLsbD_statusWord (s : State) (k : Nat) : s.statusWord.getLsbD k =
    ((decide (8 ≤ k ∧ k ≤ 11) && s.ERRCODE.getLsbD (k - 8)) || (decide (k = 3) && s.XBLK) || (decide (k = 2) && s.ERR)
      || (decide (k = 1) && s.DONE) || (decide (k = 0) && s.busy)) := by
  have hbusy := getLsbD_flag s.busy 0 k (by omega)
  rw [BitVec.shiftLeft_zero] at hbusy
  simp only [State.statusWord, BitVec.getLsbD_or, getLsbD_errcodeField, getLsbD_flag _ _ _ (show 3 < 32 by omega),
    getLsbD_flag _ _ _ (show 2 < 32 by omega), getLsbD_flag _ _ _ (show 1 < 32 by omega), hbusy]

/-- The bits of IRQ_EN (10_state.md R41, R51). -/
theorem State.getLsbD_irqEnWord (s : State) (k : Nat) :
    s.irqEnWord.getLsbD k = ((decide (k = 2) && s.ERR_IE) || (decide (k = 1) && s.DONE_IE)) := by
  simp only [State.irqEnWord, BitVec.getLsbD_or, getLsbD_flag _ _ _ (show 2 < 32 by omega),
    getLsbD_flag _ _ _ (show 1 < 32 by omega)]

/-- After a write of v, IRQ_EN reads as v with every reserved bit 0 (10_state.md R41). -/
theorem State.irqEnWord_writeIrqEn (s : State) (v : Word) : (s.writeIrqEn v).irqEnWord = v &&& 0x00000006 := by
  apply BitVec.eq_of_getLsbD_eq
  intro k hk
  rw [getLsbD_irqEnWord, BitVec.getLsbD_and, State.writeIrqEn_ERR_IE, State.writeIrqEn_DONE_IE]
  have hmask : ∀ k < 32, (0x00000006 : Word).getLsbD k = (decide (k = 2) || decide (k = 1)) := by decide
  rw [hmask k hk]
  by_cases h2 : k = 2
  · simp [h2]
  · by_cases h1 : k = 1
    · simp [h1]
    · simp [h2, h1]

end Sys2Proof.Machine

/-! Proofs of the statements about the state, 2: the invariant. Each operation keeps `State.Inv`, and so every step does. -/

namespace Sys2Proof.Machine

/-! ### The operations keep the invariant -/

/-- The invariant speaks of PEND, DONE, ERR and ERRCODE only. -/
theorem State.Inv.of_eq {s t : State} (h : s.Inv) (hp : t.PEND = s.PEND) (hd : t.DONE = s.DONE) (he : t.ERR = s.ERR)
    (hc : t.ERRCODE = s.ERRCODE) : t.Inv where
  pendLegal := hp ▸ h.pendLegal
  doneWhenIdle := by
    rw [State.busy, hp, hd]
    exact h.doneWhenIdle
  errcodeRecorded := by
    rw [he, hc]
    exact h.errcodeRecorded
  errcodeRange := hc ▸ h.errcodeRange

/-- Every error code is one of 1 to 4 (60_exceptions.md R330). -/
theorem errBits_range (e : ErrCode) : errBits e ≠ 0 ∧ (errBits e).toNat ≤ 4 := by
  cases e <;> decide

theorem State.Inv.raiseError {s : State} (h : s.Inv) (e : ErrCode) : (s.raiseError e).Inv := by
  obtain ⟨hne, hle⟩ := errBits_range e
  cases hE : s.ERR with
  | true => rwa [State.raiseError, if_pos hE]
  | false =>
    exact ⟨by simpa using h.pendLegal, by simpa using h.doneWhenIdle, by simpa [hE] using hne, by simpa [hE] using hle⟩

theorem State.Inv.writeStatus {s : State} (h : s.Inv) (v : Word) : (s.writeStatus v).Inv where
  pendLegal := h.pendLegal
  doneWhenIdle hb := by simp [h.doneWhenIdle hb]
  errcodeRecorded := by
    rw [State.writeStatus_ERR, State.writeStatus_ERRCODE]
    split_ifs
    · decide
    · exact h.errcodeRecorded
  errcodeRange := by
    rw [State.writeStatus_ERRCODE]
    split_ifs
    · decide
    · exact h.errcodeRange

/-- Acceptance of a legal word keeps the invariant: it clears DONE as it sets BUSY (10_state.md R44). -/
theorem State.Inv.accept {s : State} (h : s.Inv) {c : Word} {i : Instr} (hd : decode c = .ok i) : (s.accept c).Inv where
  pendLegal c' hc := ⟨i, by rwa [← Option.some.inj hc]⟩
  doneWhenIdle _ := rfl
  errcodeRecorded := h.errcodeRecorded
  errcodeRange := h.errcodeRange

/-- Completion keeps the invariant: it sets DONE as it clears BUSY (10_state.md R44). -/
theorem State.Inv.complete {s : State} (h : s.Inv) : s.complete.Inv where
  pendLegal _ hc := by cases hc
  doneWhenIdle hb := by cases hb
  errcodeRecorded := h.errcodeRecorded
  errcodeRange := h.errcodeRange

theorem State.Inv.offerCommand {s : State} (h : s.Inv) (c : Word) : (s.offerCommand c).Inv := by
  obtain ⟨-, he⟩ | ⟨-, e, -, he⟩ | ⟨-, i, hd, he⟩ := s.offerCommand_cases c <;> rw [he]
  · exact h.raiseError .busy
  · exact h.raiseError e
  · exact h.accept hd

theorem State.Inv.writeReg {s : State} (h : s.Inv) (r : Reg) (v : Word) : (s.writeReg r v).Inv := by
  obtain ⟨-, he⟩ | ⟨-, he⟩ | ⟨-, he⟩ | ⟨-, he⟩ | ⟨-, -, he⟩ | ⟨-, -, he⟩ := s.writeReg_cases r v <;> rw [he]
  · exact h
  · exact h.writeStatus v
  · exact h.offerCommand v
  · exact h.of_eq rfl rfl rfl rfl
  · exact h.raiseError .busy
  · exact h.of_eq (by simp) (by simp) (by simp) (by simp)

theorem State.Inv.hostWrite {s : State} (h : s.Inv) (z : BusSize) (off : Offset) (v : Word) : (s.hostWrite z off v).Inv := by
  obtain ⟨-, he⟩ | ⟨r, -, he⟩ := s.hostWrite_cases z off v <;> rw [he]
  · exact h.of_eq rfl rfl rfl rfl
  · exact (h.writeReg r v).of_eq rfl rfl rfl rfl

theorem State.Inv.hostRead {s : State} (h : s.Inv) (z : BusSize) (off : Offset) : (s.hostRead z off).Inv :=
  h.of_eq (by simp) (by simp) (by simp) (by simp)

theorem State.Inv.engineStep {s t : State} (h : s.Inv) (he : engineStep s = .next t) : t.Inv := by
  obtain ⟨-, rfl⟩ | ⟨c, i, x, hs, mb, l, kb, -, -, rfl, -⟩ := engineStep_next_cases he
  · exact h
  · have hw : State.Inv { s with XBLK := x, H := hs, MB := mb, S := l, KB := kb } := h.of_eq rfl rfl rfl rfl
    exact hw.complete

theorem State.inv_reset : State.reset.Inv where
  pendLegal _ hc := by cases hc
  doneWhenIdle hb := by cases hb
  errcodeRecorded := by decide
  errcodeRange := by decide

/-- Settles O40: PEND is empty at reset, and ERR and ERRCODE are 0. -/
theorem invariantHoldsAtReset : Obligations.InvariantHoldsAtReset := State.inv_reset

/-- Settles O41, by cases on the step: taking an entry off the inbox touches nothing of the invariant, and each operation
keeps it. -/
theorem everyStepKeepsTheInvariant : Obligations.EveryStepKeepsTheInvariant := by
  intro s t h hs
  have hrest (rest : List Event) : State.Inv { s with inbox := rest } := h.of_eq rfl rfl rfl rfl
  obtain ⟨-, rest, he⟩ | ⟨rest, -, rfl⟩ | ⟨z, off, rest, -, rfl⟩ | ⟨z, off, v, rest, -, rfl⟩ := step_next_cases hs
  · exact (hrest rest).engineStep he
  · exact State.inv_reset.of_eq rfl rfl rfl rfl
  · exact (hrest rest).hostRead z off
  · exact (hrest rest).hostWrite z off v

end Sys2Proof.Machine

/-! Proofs of the statements about the state, 3: the register map, and what a write to a data register leaves. -/

namespace Sys2Proof.Machine

/-! ### The register map (10_state.md R50) -/

theorem Reg.offset_h (i : Fin 5) : (Reg.h i).offset.toNat = 0x020 + 4 * i.val := by
  simp [Reg.offset]; omega

theorem Reg.offset_mb (k : Fin 16) : (Reg.mb k).offset.toNat = 0x040 + 4 * k.val := by
  simp [Reg.offset]; omega

theorem Reg.offset_sLo (i : Fin 25) : (Reg.sLo i).offset.toNat = 0x100 + 8 * i.val := by
  simp [Reg.offset]; omega

theorem Reg.offset_sHi (i : Fin 25) : (Reg.sHi i).offset.toNat = 0x104 + 8 * i.val := by
  simp [Reg.offset]; omega

theorem Reg.offset_kbLo (j : Fin 17) : (Reg.kbLo j).offset.toNat = 0x200 + 8 * j.val := by
  simp [Reg.offset]; omega

theorem Reg.offset_kbHi (j : Fin 17) : (Reg.kbHi j).offset.toNat = 0x204 + 8 * j.val := by
  simp [Reg.offset]; omega

/-- The word decode finds a register only at the word where the register stands. -/
theorem offset_of_regAtWord {q : Nat} {r : Reg} (h : regAtWord q = some r) : r.offset.toNat = 4 * q := by
  simp only [regAtWord, ite_eq_iff, dite_eq_iff, Option.some.injEq] at h
  obtain ⟨rfl, rfl⟩ | ⟨-, ⟨rfl, rfl⟩ | ⟨-, ⟨rfl, rfl⟩ | ⟨-, ⟨rfl, rfl⟩ | ⟨-, ⟨rfl, rfl⟩ | ⟨-, ⟨rfl, rfl⟩ |
    ⟨-, ⟨hq, rfl⟩ | ⟨-, ⟨hq, rfl⟩ | ⟨-, ⟨hq, ⟨hp, rfl⟩ | ⟨hp, rfl⟩⟩ | ⟨-, ⟨hq, ⟨hp, rfl⟩ | ⟨hp, rfl⟩⟩ |
    ⟨-, hnone⟩⟩⟩⟩⟩⟩⟩⟩⟩⟩ := h
  · rfl
  · rfl
  · rfl
  · rfl
  · rfl
  · rfl
  · simp only [Reg.offset_h]; omega
  · simp only [Reg.offset_mb]; omega
  · simp only [Reg.offset_sLo]; omega
  · simp only [Reg.offset_sHi]; omega
  · simp only [Reg.offset_kbLo]; omega
  · simp only [Reg.offset_kbHi]; omega
  · cases hnone

/-- The address decode and the offsets of the map are inverse to each other. -/
theorem regAt_eq_some_iff {off : Offset} {r : Reg} : regAt off = some r ↔ r.offset = off := by
  constructor
  · intro h
    unfold regAt at h
    split_ifs at h with ha
    apply BitVec.eq_of_toNat_eq
    rw [offset_of_regAtWord h]
    omega
  · rintro rfl
    exact regAt_offset r

/-- Settles O27: the decode is inverse to the offsets, and each offset is the map's. -/
theorem registerMapIsExact : Obligations.RegisterMapIsExact :=
  ⟨fun _ _ => regAt_eq_some_iff, rfl, rfl, rfl, rfl, rfl, rfl, Reg.offset_h, Reg.offset_mb,
    fun i => ⟨Reg.offset_sLo i, Reg.offset_sHi i⟩, fun j => ⟨Reg.offset_kbLo j, Reg.offset_kbHi j⟩⟩

/-! ### Reading after a write to a data register (20_memory.md R86) -/

theorem getElem_set_of_ne {α : Type} {n : Nat} (a : Vector α n) {i j : Fin n} (x : α) (h : j ≠ i) : (a.set i x)[j] = a[j] :=
  Vector.getElem_set_ne i.isLt j.isLt (Fin.val_ne_of_ne h.symm)

/-- A view of the entries of an array that entry i's new value does not change reads as before at every entry: how a write to
one half of a lane leaves the other half. -/
theorem view_getElem_set {α β : Type} {n : Nat} (f : α → β) (a : Vector α n) (i j : Fin n) (x : α) (h : f x = f a[i]) :
    f (a.set i x)[j] = f a[j] := by
  by_cases hij : j = i
  · subst hij
    simpa using h
  · rw [getElem_set_of_ne a x hij]

/-- A data register reads back what was written. -/
theorem State.readReg_setData_same (s : State) {r : Reg} (v : Word) (hr : r.isData = true) :
    (s.setData r v).readReg r = v := by
  cases r with
  | id | status | cmd | irqEn => cases hr
  | lenLo => exact loHalf_setLoHalf s.LEN v
  | lenHi => exact hiHalf_setHiHalf s.LEN v
  | h | mb | sLo | sHi | kbLo | kbHi => simp [State.setData, State.readReg]

/-- Every other register reads as before, the other half of a lane too. -/
theorem State.readReg_setData_of_ne (s : State) {r r' : Reg} (v : Word) (hne : r' ≠ r) :
    (s.setData r v).readReg r' = s.readReg r' := by
  cases r with
  | id | status | cmd | irqEn => rfl
  | lenLo =>
    cases r' with
    | lenLo => exact absurd rfl hne
    | lenHi => exact hiHalf_setLoHalf s.LEN v
    | _ => rfl
  | lenHi =>
    cases r' with
    | lenHi => exact absurd rfl hne
    | lenLo => exact loHalf_setHiHalf s.LEN v
    | _ => rfl
  | h i =>
    cases r' with
    | h j => exact getElem_set_of_ne s.H v fun hij => hne (congrArg Reg.h hij)
    | _ => rfl
  | mb i =>
    cases r' with
    | mb j => exact getElem_set_of_ne s.MB v fun hij => hne (congrArg Reg.mb hij)
    | _ => rfl
  | sLo i =>
    cases r' with
    | sLo j => exact congrArg loHalf (getElem_set_of_ne s.S _ fun hij => hne (congrArg Reg.sLo hij))
    | sHi j => exact view_getElem_set hiHalf s.S i j _ (hiHalf_setLoHalf _ v)
    | _ => rfl
  | sHi i =>
    cases r' with
    | sHi j => exact congrArg hiHalf (getElem_set_of_ne s.S _ fun hij => hne (congrArg Reg.sHi hij))
    | sLo j => exact view_getElem_set loHalf s.S i j _ (loHalf_setHiHalf _ v)
    | _ => rfl
  | kbLo i =>
    cases r' with
    | kbLo j => exact congrArg loHalf (getElem_set_of_ne s.KB _ fun hij => hne (congrArg Reg.kbLo hij))
    | kbHi j => exact view_getElem_set hiHalf s.KB i j _ (hiHalf_setLoHalf _ v)
    | _ => rfl
  | kbHi i =>
    cases r' with
    | kbHi j => exact congrArg hiHalf (getElem_set_of_ne s.KB _ fun hij => hne (congrArg Reg.kbHi hij))
    | kbLo j => exact view_getElem_set loHalf s.KB i j _ (loHalf_setHiHalf _ v)
    | _ => rfl

/-- The response to a transaction and the entries laid out are read through no register. -/
theorem State.readReg_respond (s : State) (p : Reply) (r : Reg) : (s.respond p).readReg r = s.readReg r := by
  cases r <;> rfl

theorem State.readReg_inbox (s : State) (es : List Event) (r : Reg) :
    State.readReg { s with inbox := es } r = s.readReg r := by
  cases r <;> rfl

/-- Settles O35: an idle write to a data register is `setData`, which changes the reading of that register alone. -/
theorem idleDataWritesChangeOneRegister : Obligations.IdleDataWritesChangeOneRegister := by
  intro s r v rest hb hr hi
  have hstep := step_write_reg r hi
  rw [State.writeReg_data _ v hr, if_neg (by simpa [State.busy] using hb)] at hstep
  refine ⟨_, hstep, ?_, fun r' hne => ?_, ?_⟩
  · rw [State.readReg_respond, State.readReg_setData_same _ v hr]
  · rw [State.readReg_respond, State.readReg_setData_of_ne _ v hne, State.readReg_inbox]
  · simpa using s.busy_eq_false_iff.mp hb

end Sys2Proof.Machine

/-! Proofs of the statements about the state, 4: the control registers, the interrupt output and reset. -/

namespace Sys2Proof.Machine

/-- Settles O31: the five fields of STATUS stand at distinct bits. -/
theorem statusReadsItsFields : Obligations.StatusReadsItsFields := by
  intro s k
  show s.statusWord.getLsbD k = _
  rw [State.getLsbD_statusWord]
  split_ifs with h0 h1 h2 h3 h8
  · simp [h0, State.busy]
  · simp [h1]
  · simp [h2]
  · simp [h3]
  · simp [h0, h1, h2, h3, h8]
  · simp [h0, h1, h2, h3, h8]

/-- Settles O32: the write is `writeStatus`, and with DONE and ERR both cleared no source is pending. -/
theorem statusWritesClearDoneAndErr : Obligations.StatusWritesClearDoneAndErr := by
  intro s v rest hi
  refine ⟨_, step_write_reg .status hi, ?_, fun h1 h2 => ?_⟩
  · ext1 <;> simp [State.writeReg, Bool.and_comm]
  · simp [State.writeReg, State.irq, h1, h2]

/-- Settles O33: the write is `writeIrqEn`, whose reading back is `irqEnWord_writeIrqEn`. -/
theorem irqEnHoldsTwoEnables : Obligations.IrqEnHoldsTwoEnables := by
  refine ⟨fun s v rest hi => ⟨_, step_write_reg .irqEn hi, rfl, ?_⟩, by decide⟩
  rw [State.readReg_respond]
  exact State.irqEnWord_writeIrqEn _ v

/-- Settles O34: ID is a control register, read exactly in every state, and its write is the identity. -/
theorem idIsConstant : Obligations.IdIsConstant :=
  fun _ _ _ => ⟨fun hi => step_read_control .id rfl hi, fun hi => step_write_reg .id hi⟩

/-- Settles O37: `irq` is the Boolean form of the two enabled sources. -/
theorem irqIsTheEnabledPendingLevel : Obligations.IrqIsTheEnabledPendingLevel := by
  intro s
  simp only [State.irq, Bool.or_eq_true, Bool.and_eq_true]

/-- Settles O38: each row of R52 is the field's value at reset. -/
theorem resetValuesAreTheTable : Obligations.ResetValuesAreTheTable :=
  ⟨rfl, rfl, rfl, rfl, rfl, rfl, rfl, rfl, rfl, rfl, rfl, rfl, rfl, rfl, rfl⟩

end Sys2Proof.Machine

/-! Proofs of the statements about the state, 5: the lifecycle of a command (10_state.md R44), and who writes DONE, XBLK and
LEN. -/

namespace Sys2Proof.Machine

/-- Settles O5: with a legal word in PEND the engine's step is its meaning. -/
theorem engineStepRunsThePendingCommand : Obligations.EngineStepRunsThePendingCommand := by
  intro s c i hp hd
  refine ⟨fun hi => ?_, fun rest hi => ?_⟩
  · rw [step_nil hi, engineStep_of_pending hp hd]
  · rw [step_complete hi, engineStep_of_pending (s := { s with inbox := rest }) hp hd]

/-- Settles O7: a well-formed command ends in `complete`, which records no error. -/
theorem everyCommandCompletesWithoutError : Obligations.EveryCommandCompletesWithoutError := by
  intro i s hw
  obtain ⟨x, h, mb, l, kb, he, -⟩ := exec_wellFormed i s hw
  exact ⟨_, he, rfl, rfl, rfl, rfl, rfl⟩

/-! ### What host transactions leave -/

/-- No host write sets DONE: a write to STATUS and an acceptance only clear it (10_state.md R36). -/
theorem State.hostWrite_DONE_of_false {s : State} (h : s.DONE = false) (z : BusSize) (off : Offset) (v : Word) :
    (s.hostWrite z off v).DONE = false := by
  have hoffer : (s.offerCommand v).DONE = false := by
    obtain ⟨-, he⟩ | ⟨-, e, -, he⟩ | ⟨-, i, -, he⟩ := s.offerCommand_cases v <;> simp [he, h]
  obtain ⟨-, he⟩ | ⟨r, -, he⟩ := s.hostWrite_cases z off v <;> rw [he, State.respond_DONE]
  · exact h
  · obtain ⟨-, he⟩ | ⟨-, he⟩ | ⟨-, he⟩ | ⟨-, he⟩ | ⟨-, -, he⟩ | ⟨-, -, he⟩ := s.writeReg_cases r v <;> rw [he]
    · exact h
    · simp [h]
    · exact hoffer
    · exact h
    · simp [h]
    · simp [h]

/-- A write to a register changes LEN only while idle, and only at LEN_LO or LEN_HI (10_state.md R42). -/
theorem State.writeReg_LEN_of_ne {s : State} {r : Reg} {v : Word} (h : (s.writeReg r v).LEN ≠ s.LEN) :
    s.busy = false ∧ (r = .lenLo ∨ r = .lenHi) := by
  obtain ⟨-, he⟩ | ⟨-, he⟩ | ⟨-, he⟩ | ⟨-, he⟩ | ⟨-, -, he⟩ | ⟨-, hb, he⟩ := s.writeReg_cases r v <;> rw [he] at h
  · exact absurd rfl h
  · exact absurd rfl h
  · exact absurd (s.offerCommand_LEN v) h
  · exact absurd rfl h
  · exact absurd (s.raiseError_LEN .busy) h
  · refine ⟨hb, ?_⟩
    cases r with
    | lenLo => exact .inl rfl
    | lenHi => exact .inr rfl
    | _ => exact absurd rfl h

/-- A host write changes LEN only while idle, and only as a 32-bit write to 0x010 or 0x014 (10_state.md R42, R50). -/
theorem State.hostWrite_LEN_of_ne {s : State} {z : BusSize} {off : Offset} {v : Word}
    (h : (s.hostWrite z off v).LEN ≠ s.LEN) : s.busy = false ∧ z = .bits32 ∧ (off = 0x010 ∨ off = 0x014) := by
  obtain ⟨-, he⟩ | ⟨r, ht, he⟩ := s.hostWrite_cases z off v <;> rw [he, State.respond_LEN] at h
  · exact absurd rfl h
  · obtain ⟨rfl, hr⟩ := busTarget_eq_some.mp ht
    rw [← regAt_eq_some_iff.mp hr]
    obtain ⟨hb, rfl | rfl⟩ := State.writeReg_LEN_of_ne h
    · exact ⟨hb, rfl, .inl rfl⟩
    · exact ⟨hb, rfl, .inr rfl⟩

/-- Settles O45: the engine's step with nothing pending, a reset and a host transaction leave DONE at 0. -/
theorem onlyCompletionSetsDone : Obligations.OnlyCompletionSetsDone := by
  intro s t hs h0 h1
  obtain ⟨hn, rest, he⟩ | ⟨rest, -, rfl⟩ | ⟨z, off, rest, -, rfl⟩ | ⟨z, off, v, rest, -, rfl⟩ := step_next_cases hs
  · obtain ⟨-, rfl⟩ | ⟨c, i, x, h, mb, l, kb, hp, -, rfl, -⟩ := engineStep_next_cases he
    · cases h0.symm.trans h1
    · exact ⟨s.busy_iff.mpr ⟨c, hp⟩, rfl, hn⟩
  · cases h1
  · rw [State.hostRead_DONE] at h1
    cases h0.symm.trans h1
  · rw [State.hostWrite_DONE_of_false (s := { s with inbox := rest }) h0] at h1
    cases h1

/-- Settles O46: only the engine's step of a command that writes XBLK changes it, and only a host write changes LEN. -/
theorem xblkAndLenHaveFewWriters : Obligations.XblkAndLenHaveFewWriters := by
  intro s t hs hreset
  obtain ⟨hn, rest, he⟩ | ⟨rest, hi, -⟩ | ⟨z, off, rest, -, rfl⟩ | ⟨z, off, v, rest, hi, rfl⟩ := step_next_cases hs
  · obtain ⟨-, rfl⟩ | ⟨c, i, x, h, mb, l, kb, hp, hd, rfl, hx⟩ := engineStep_next_cases he
    · exact ⟨fun hne => absurd rfl hne, fun hne => absurd rfl hne⟩
    · refine ⟨fun hne => ⟨hn, c, i, hp, hd, ?_⟩, fun hne => absurd rfl hne⟩
      exact Instr.writesXblk_cases (Bool.of_not_eq_false fun hw => hne (hx hw))
  · exact absurd hi (hreset rest)
  · exact ⟨fun hne => absurd (State.hostRead_XBLK _ z off) hne, fun hne => absurd (State.hostRead_LEN _ z off) hne⟩
  · refine ⟨fun hne => absurd (State.hostWrite_XBLK _ z off v) hne, fun hne => ?_⟩
    obtain ⟨hb, rfl, rfl | rfl⟩ := State.hostWrite_LEN_of_ne hne
    · exact ⟨hb, v, rest, .inl hi⟩
    · exact ⟨hb, v, rest, .inr hi⟩

end Sys2Proof.Machine

/-! Proofs of the statements about the state, 6: host transactions between the acceptance of a command and its completion
(10_state.md R44, 70_reset_and_hazards.md R380). -/

namespace Sys2Proof.Machine

/-- The two states hold the same operands of commands and the same XBLK: all that a command reads or computes, its flags of
the lifecycle and the error record apart. -/
structure State.SameOperands (s t : State) : Prop where
  LEN : t.LEN = s.LEN
  H : t.H = s.H
  MB : t.MB = s.MB
  S : t.S = s.S
  KB : t.KB = s.KB
  XBLK : t.XBLK = s.XBLK

theorem State.SameOperands.trans {s t u : State} (h : s.SameOperands t) (k : t.SameOperands u) : s.SameOperands u :=
  ⟨k.LEN.trans h.LEN, k.H.trans h.H, k.MB.trans h.MB, k.S.trans h.S, k.KB.trans h.KB, k.XBLK.trans h.XBLK⟩

/-- A well-formed command takes states with the same operands to states with the same operands, and ends each lifecycle. -/
theorem exec_sameOperands {i : Instr} (hw : i.WellFormed) {s t : State} (h : s.SameOperands t) :
    ∃ s' t', exec i s = .next s' ∧ exec i t = .next t' ∧ s'.SameOperands t' ∧ t'.PEND = none ∧ t'.DONE = true := by
  obtain ⟨hL, hH, hM, hS, hK, hX⟩ := h
  cases i with
  | sha1Init => exact ⟨_, _, rfl, rfl, ⟨hL, rfl, hM, hS, hK, rfl⟩, rfl, rfl⟩
  | sha1Compress => exact ⟨_, _, rfl, rfl, ⟨hL, congrArg₂ sha1Compress hH hM, hM, hS, hK, hX⟩, rfl, rfl⟩
  | sha1Pad n =>
    have hn : n.toNat ≤ 63 := of_decide_eq_true hw
    have hblock : sha1PadBlock t.LEN t.MB n.toNat = sha1PadBlock s.LEN s.MB n.toNat := by rw [hL, hM]
    exact ⟨_, _, if_pos hn, if_pos hn, ⟨hL, hH, hblock, hS, hK, rfl⟩, rfl, rfl⟩
  | sha1Padlen => exact ⟨_, _, rfl, rfl, ⟨hL, hH, congrArg sha1LengthBlock hL, hS, hK, rfl⟩, rfl, rfl⟩
  | keccakClear => exact ⟨_, _, rfl, rfl, ⟨hL, hH, hM, rfl, hK, hX⟩, rfl, rfl⟩
  | keccakPermute => exact ⟨_, _, rfl, rfl, ⟨hL, hH, hM, congrArg keccakF hS, hK, hX⟩, rfl, rfl⟩
  | keccakAbsorb => exact ⟨_, _, rfl, rfl, ⟨hL, hH, hM, congrArg₂ absorbLanes hS hK, hK, hX⟩, rfl, rfl⟩
  | sha3Pad n =>
    have hn : n.toNat ≤ 135 := of_decide_eq_true hw
    have hblock : sha3PadBlock t.KB n.toNat = sha3PadBlock s.KB n.toNat := by rw [hK]
    exact ⟨_, _, if_pos hn, if_pos hn, ⟨hL, hH, hM, hS, hblock, hX⟩, rfl, rfl⟩

/-- While busy, a write to a register keeps the operands and PEND: a write to CMD or to a data register is discarded
(70_reset_and_hazards.md R380). -/
theorem State.writeReg_of_busy {s : State} (hb : s.busy = true) (r : Reg) (v : Word) :
    s.SameOperands (s.writeReg r v) ∧ (s.writeReg r v).PEND = s.PEND := by
  have hraise : s.SameOperands (s.raiseError .busy) ∧ (s.raiseError .busy).PEND = s.PEND :=
    ⟨⟨by simp, by simp, by simp, by simp, by simp, by simp⟩, by simp⟩
  obtain ⟨-, he⟩ | ⟨-, he⟩ | ⟨-, he⟩ | ⟨-, he⟩ | ⟨-, -, he⟩ | ⟨-, hidle, -⟩ := s.writeReg_cases r v
  · rw [he]
    exact ⟨⟨rfl, rfl, rfl, rfl, rfl, rfl⟩, rfl⟩
  · rw [he]
    exact ⟨⟨rfl, rfl, rfl, rfl, rfl, rfl⟩, rfl⟩
  · rw [he, State.offerCommand, if_pos hb]
    exact hraise
  · rw [he]
    exact ⟨⟨rfl, rfl, rfl, rfl, rfl, rfl⟩, rfl⟩
  · rw [he]
    exact hraise
  · cases hb.symm.trans hidle

/-- While busy, a step that is a host transaction answers a next state, keeps the operands and PEND, and takes its own entry
off the inbox. -/
theorem step_host_of_busy {s : State} (hb : s.busy = true) {e : Event} (he : e.isHost = true) (es : List Event) :
    ∃ t, step { s with inbox := e :: es } = .next t ∧ t.inbox = es ∧ s.SameOperands t ∧ t.PEND = s.PEND := by
  cases e with
  | read z off =>
    obtain ⟨r, n, hr⟩ := State.hostRead_eq { s with inbox := es } z off
    exact ⟨_, congrArg Host.Outcome.next hr, rfl, ⟨rfl, rfl, rfl, rfl, rfl, rfl⟩, rfl⟩
  | write z off v =>
    refine ⟨_, rfl, by simp, ?_⟩
    obtain ⟨-, hw⟩ | ⟨r, -, hw⟩ := State.hostWrite_cases { s with inbox := es } z off v
    · rw [hw]
      exact ⟨⟨rfl, rfl, rfl, rfl, rfl, rfl⟩, rfl⟩
    · obtain ⟨⟨hL, hH, hM, hS, hK, hX⟩, hp⟩ := State.writeReg_of_busy (s := { s with inbox := es }) hb r v
      rw [hw]
      exact ⟨⟨hL, hH, hM, hS, hK, hX⟩, hp⟩
  | complete => cases he
  | reset => cases he

/-- While busy, any list of host transactions laid out before `rest` runs to a state that has the same operands, the same PEND
and `rest` still laid out. -/
theorem runInbox_host_of_busy {s : State} (hb : s.busy = true) {es : List Event} (hes : ∀ e ∈ es, e.isHost = true)
    (rest : List Event) :
    ∃ t, runInbox s (es ++ rest) = runInbox t rest ∧ s.SameOperands t ∧ t.PEND = s.PEND := by
  induction es generalizing s with
  | nil => exact ⟨s, rfl, ⟨rfl, rfl, rfl, rfl, rfl, rfl⟩, rfl⟩
  | cons e es ih =>
    obtain ⟨he, htail⟩ := List.forall_mem_cons.mp hes
    obtain ⟨u, hstep, hinbox, hops, hpend⟩ := step_host_of_busy hb he (es ++ rest)
    obtain ⟨t, hrun, hops', hpend'⟩ := ih (by rwa [State.busy, hpend]) htail
    exact ⟨t, (runInbox_cons s u e _ hstep hinbox).trans hrun, hops.trans hops', hpend'.trans hpend⟩

/-- Settles O43: the run of the host transactions, with nothing laid out after them. -/
theorem hostCannotTouchAPendingCommand : Obligations.HostCannotTouchAPendingCommand := by
  intro s es hb hes
  obtain ⟨t, hrun, ⟨hL, hH, hM, hS, hK, hX⟩, hp⟩ := runInbox_host_of_busy hb hes []
  rw [List.append_nil] at hrun
  exact ⟨_, hrun, hL, hH, hM, hS, hK, hX, hp⟩

/-- The engine's completion, laid out alone, runs the legal command in PEND. -/
theorem runInbox_complete {s t : State} {c : Word} {i : Instr} (hp : s.PEND = some c) (hd : decode c = .ok i)
    (he : exec i { s with inbox := [] } = .next t) : runInbox s [.complete] = .next t := by
  have hstep : step { s with inbox := [.complete] } = .next t :=
    (step_complete rfl).trans ((engineStep_of_pending (s := { s with inbox := [] }) hp hd).trans he)
  exact run_succ_of_next Sys2Proof.core 0 ({ s with inbox := [.complete] } : State) t hstep

/-- Settles O44: acceptance and the host steps keep the operands, so the completion computes what `exec` computes from the state
before the write. -/
theorem completionMayComeAfterAnyHostSteps : Obligations.CompletionMayComeAfterAnyHostSteps := by
  intro s c i es hb hd hes
  have haccept : step { s with inbox := .write .bits32 Reg.cmd.offset c :: (es ++ [.complete]) } =
      .next (((State.accept c { s with inbox := es ++ [.complete] })).respond .ok) := by
    rw [step_write_reg .cmd rfl]
    simp [State.writeReg, State.offerCommand, State.busy, s.busy_eq_false_iff.mp hb, hd]
  obtain ⟨t, hrun, hops, hpend⟩ := runInbox_host_of_busy
    (s := (State.accept c { s with inbox := es ++ [.complete] }).respond .ok) rfl hes [.complete]
  have hsame : s.SameOperands { t with inbox := [] } := ⟨hops.LEN, hops.H, hops.MB, hops.S, hops.KB, hops.XBLK⟩
  obtain ⟨u, t', hu, ht', ⟨hL, hH, hM, hS, hK, hX⟩, hidle, hdone⟩ := exec_sameOperands (wellFormed_of_decode hd) hsame
  have hfull := ((runInbox_cons s _ _ _ haccept rfl).trans hrun).trans (runInbox_complete hpend hd ht')
  exact ⟨t', u, hfull, hu, hL, hH, hM, hS, hK, hX, hidle, hdone⟩

end Sys2Proof.Machine

/-! Proofs of the statements about the bus: which transactions reach no register (20_memory.md R82 to R84), what an exact
read returns (R85), and the reads of a data register while busy (70_reset_and_hazards.md R381). -/

namespace Sys2Proof.Machine

/-! ### Transactions that reach no register -/

/-- Every register stands at a multiple of 4, in one of the five mapped parts of the window (10_state.md R50). -/
theorem Reg.offset_mapped (r : Reg) : r.offset.toNat % 4 = 0 ∧
    (r.offset.toNat < 0x018 ∨ (0x020 ≤ r.offset.toNat ∧ r.offset.toNat < 0x034) ∨
      (0x040 ≤ r.offset.toNat ∧ r.offset.toNat < 0x080) ∨ (0x100 ≤ r.offset.toNat ∧ r.offset.toNat < 0x1C8) ∨
      (0x200 ≤ r.offset.toNat ∧ r.offset.toNat < 0x288)) := by
  cases r with
  | id | status | cmd | irqEn | lenLo | lenHi => decide
  | h i => rw [Reg.offset_h]; omega
  | mb k => rw [Reg.offset_mb]; omega
  | sLo i => rw [Reg.offset_sLo]; omega
  | sHi i => rw [Reg.offset_sHi]; omega
  | kbLo j => rw [Reg.offset_kbLo]; omega
  | kbHi j => rw [Reg.offset_kbHi]; omega

/-- A transaction that is not at a register's offset, or not 32 bits wide, reaches no register. -/
theorem busTarget_eq_none {z : BusSize} {off : Offset} (h : z = .bits32 → ∀ r : Reg, r.offset ≠ off) :
    busTarget z off = none := by
  refine Option.eq_none_iff_forall_ne_some.mpr fun r hr => ?_
  obtain ⟨hz, hreg⟩ := busTarget_eq_some.mp hr
  exact h hz r (regAt_eq_some_iff.mp hreg)

/-- A read or a write that reaches no register is answered `BusError` and has no other effect (20_memory.md R81). -/
theorem step_busError {s : State} {z : BusSize} {off : Offset} {v : Word} {rest : List Event}
    (ht : busTarget z off = none) (h : s.inbox = .read z off :: rest ∨ s.inbox = .write z off v :: rest) :
    step s = .next (State.respond .busError { s with inbox := rest }) := by
  obtain h | h := h
  · rw [step_read h, State.hostRead, ht]
  · rw [step_write h, State.hostWrite, ht]

/-- Settles O28: a register's offset is mapped, so these transactions reach none. -/
theorem busErrorsChangeNothing : Obligations.BusErrorsChangeNothing := by
  rintro s z off v rest o rfl hbad hi
  refine step_busError (busTarget_eq_none fun hz r hr => ?_) hi
  obtain ⟨haligned, hmapped⟩ := hr ▸ r.offset_mapped
  obtain hsize | hrange := hbad
  · exact hsize hz
  · omega

/-! ### Exact reads -/

/-- A 32-bit read of any register while idle is exact (20_memory.md R85). -/
theorem step_read_idle {s : State} {rest : List Event} (r : Reg) (hb : s.busy = false)
    (h : s.inbox = .read .bits32 r.offset :: rest) :
    step s = .next (State.respond (.data (s.readReg r)) { s with inbox := rest }) := by
  have hexact : (State.busy { s with inbox := rest } && r.isData) = false := congrArg (· && r.isData) hb
  rw [step_read h, State.hostRead_offset _ _ hexact, State.readReg_inbox]

/-- A flag placed at bit n of a word, as a choice of two words. -/
theorem shiftLeft_flag (b : Bool) (n : Nat) :
    (BitVec.ofBool b).setWidth 32 <<< n = if b then (1 : Word) <<< n else 0 := by
  cases b
  · exact BitVec.zero_shiftLeft n
  · rfl

/-- STATUS as R85 writes it, flag by flag. -/
theorem State.statusWord_eq (s : State) : s.statusWord =
    (s.ERRCODE.setWidth 32 <<< 8) ||| (if s.XBLK then 0x8 else 0) ||| (if s.ERR then 0x4 else 0)
      ||| (if s.DONE then 0x2 else 0) ||| (if s.PEND.isSome then 0x1 else 0) := by
  have hbusy := shiftLeft_flag s.busy 0
  rw [BitVec.shiftLeft_zero] at hbusy
  rw [State.statusWord, shiftLeft_flag, shiftLeft_flag, shiftLeft_flag, hbusy]
  rfl

/-- IRQ_EN as R85 writes it, enable by enable. -/
theorem State.irqEnWord_eq (s : State) :
    s.irqEnWord = (if s.ERR_IE then 0x4 else 0) ||| (if s.DONE_IE then 0x2 else 0) := by
  rw [State.irqEnWord, shiftLeft_flag, shiftLeft_flag]
  rfl

/-- Settles O29: an idle read and a read of a control register are exact; STATUS and IRQ_EN apart, each value is R85's by
definition. -/
theorem readsReturnTheRegister : Obligations.ReadsReturnTheRegister := by
  refine ⟨fun s r rest hexact hi => ?_, fun s => ⟨rfl, rfl, s.statusWord_eq, s.irqEnWord_eq, rfl, rfl, fun _ => rfl,
    fun _ => rfl, fun _ => ⟨rfl, rfl⟩, fun _ => ⟨rfl, rfl⟩⟩⟩
  obtain hb | hr := hexact
  · exact step_read_idle r hb hi
  · exact step_read_control r hr hi

/-! ### Reads while busy -/

/-- Every 32-bit read of a register, of a data register while busy too, is answered with some word and changes nothing but the
count of free values (20_memory.md R85, 70_reset_and_hazards.md R381). -/
theorem step_read_reg {s : State} {rest : List Event} (r : Reg) (h : s.inbox = .read .bits32 r.offset :: rest) :
    ∃ v n, step s = .next { s with inbox := rest, reply := some (.data v), draws := n } := by
  rw [step_read h, State.hostRead, busTarget_offset]
  dsimp only
  split_ifs
  · exact ⟨_, _, rfl⟩
  · exact ⟨_, s.draws, rfl⟩

/-- Settles O30: some word at a data register, and the exact value at each control register. -/
theorem busyDataReadsAreUnspecified : Obligations.BusyDataReadsAreUnspecified := by
  intro s r rest _ hi
  refine ⟨fun _ => step_read_reg r hi, ?_, ?_, ?_, ?_⟩ <;> rintro rfl <;> exact step_read_control _ rfl hi

end Sys2Proof.Machine

/-! Proofs of the statements about the encoding, 1: what the decoder answers, in the fields of the word (30_encoding.md R120,
R128), and its agreement with the encoder (R121, R125). -/

namespace Sys2Proof

/-! ### The decoder by the fields of its word -/

/-- An OPC in the map leaves the checks of R128 on RSV, on the N of format Z and on the range of N, in that order. -/
theorem decode_of_commandOf {c : Word} {i : Instr} (h : commandOf (cmdOpc c) (cmdN c) = some i) :
    decode c = if cmdRsv c ≠ 0 then .error .reservedBits
      else if i.isFormatZ = true ∧ cmdN c ≠ 0 then .error .reservedBits
      else if i.wellFormed = true then .ok i else .error .badCount := by
  simp only [decode, h, BitVec.ofNat_eq_ofNat]

/-- The encoding of a term passes every check but the one on the range of N (R126). -/
theorem decode_encode (i : Instr) :
    decode (encode i) = if i.wellFormed = true then .ok i else .error .badCount := by
  obtain ⟨hrsv, hN, hcommand⟩ := encode_fields i
  rw [decode_of_commandOf hcommand, if_neg (not_not.mpr hrsv), if_neg fun hbad => hbad.2 (hN hbad.1)]

/-- A word that decodes to a command is the command's encoding: it has the encoding's fields, and they make up the word. -/
theorem encode_of_decode {c : Word} {i : Instr} (h : decode c = .ok i) : encode i = c := by
  cases hc : commandOf (cmdOpc c) (cmdN c) with
  | none => simp [decode, hc] at h
  | some j =>
    rw [decode_of_commandOf hc] at h
    split_ifs at h with hr hz hw
    cases h
    obtain ⟨hopc, hn⟩ := commandOf_eq_some hc
    obtain ⟨hrsv, hN, -⟩ := encode_fields i
    refine fields_inj hopc.symm ?_ (hrsv.trans (not_not.mp hr).symm)
    cases hf : i.isFormatZ with
    | true => rw [hN hf, not_not.mp fun hne => hz ⟨hf, hne⟩]
    | false => exact (hn hf).symm

/-- Settles O2: `encode_of_decode` one way and `decode_encode` the other. -/
theorem decodeOkIffWordIsEncoding : Obligations.DecodeOkIffWordIsEncoding := by
  intro c i
  constructor
  · exact fun h => ⟨wellFormed_of_decode h, encode_of_decode h⟩
  · rintro ⟨hw, rfl⟩
    rw [decode_encode, if_pos hw]

/-! ### The rows of the encoding table (R125) -/

theorem and_fullMask_eq_iff {c m : Word} : c &&& 0xFFFFFFFF = m ↔ m = c := by
  rw [show c &&& 0xFFFFFFFF = c from BitVec.and_allOnes, eq_comm]

/-- The mask of the format-N rows keeps RSV and OPC and clears N. -/
theorem and_operandMask_fields (c : Word) :
    cmdOpc (c &&& 0xFFFF00FF) = cmdOpc c ∧ cmdN (c &&& 0xFFFF00FF) = 0 ∧ cmdRsv (c &&& 0xFFFF00FF) = cmdRsv c := by
  simp only [cmdOpc, cmdN, cmdRsv, BitVec.extractLsb'_and]
  exact ⟨BitVec.and_allOnes, BitVec.and_zero, BitVec.and_allOnes⟩

/-- A word matches a format-N row exactly when it is the format-N word of its own N. -/
theorem and_operandMask_eq_iff {c : Word} {opc : Byte} :
    c &&& 0xFFFF00FF = formatNWord 0 opc ↔ formatNWord (cmdN c) opc = c := by
  obtain ⟨hopc, hn, hrsv⟩ := and_operandMask_fields c
  obtain ⟨hopc0, hn0, hrsv0⟩ := formatNWord_fields 0 opc
  obtain ⟨hopcN, hnN, hrsvN⟩ := formatNWord_fields (cmdN c) opc
  constructor <;> intro h
  · rw [h] at hopc hrsv
    exact fields_inj (by rw [hopcN, ← hopc, hopc0]) hnN (by rw [hrsvN, ← hrsv, hrsv0])
  · rw [h] at hopcN hrsvN
    exact fields_inj (by rw [hopc, hopcN, hopc0]) (by rw [hn, hn0]) (by rw [hrsv, hrsvN, hrsv0])

/-- Settles O3: by O2 the legal words are the encodings of well-formed commands. The mask of a format-Z row makes its word the
only match, and the matches of a format-N row are the encodings of its command. -/
theorem legalWordsAreTheTableRowsInRange : Obligations.LegalWordsAreTheTableRowsInRange := by
  intro c
  simp only [decodeOkIffWordIsEncoding c, ← cmdN_toNat]
  constructor
  · rintro ⟨i, hw, rfl⟩
    cases i with
    | sha1Pad n =>
      obtain ⟨-, hn, -⟩ := formatNWord_fields n 0x03
      exact ⟨(0x00000003, 0xFFFF00FF), by decide, and_operandMask_eq_iff.mpr (congrArg (formatNWord · 0x03) hn),
        fun _ => (congrArg BitVec.toNat hn).trans_le (of_decide_eq_true hw), fun hrow => absurd hrow (by decide)⟩
    | sha3Pad n =>
      obtain ⟨-, hn, -⟩ := formatNWord_fields n 0x13
      exact ⟨(0x00000013, 0xFFFF00FF), by decide, and_operandMask_eq_iff.mpr (congrArg (formatNWord · 0x13) hn),
        fun hrow => absurd hrow (by decide), fun _ => (congrArg BitVec.toNat hn).trans_le (of_decide_eq_true hw)⟩
    | _ => decide
  · rintro ⟨row, hrow, hmatch, h03, h13⟩
    simp only [List.mem_cons, List.not_mem_nil, or_false] at hrow
    obtain rfl | rfl | rfl | rfl | rfl | rfl | rfl | rfl := hrow
    · exact ⟨.sha1Init, rfl, and_fullMask_eq_iff.mp hmatch⟩
    · exact ⟨.sha1Compress, rfl, and_fullMask_eq_iff.mp hmatch⟩
    · exact ⟨.sha1Pad (cmdN c), decide_eq_true (h03 rfl), and_operandMask_eq_iff.mp hmatch⟩
    · exact ⟨.sha1Padlen, rfl, and_fullMask_eq_iff.mp hmatch⟩
    · exact ⟨.keccakClear, rfl, and_fullMask_eq_iff.mp hmatch⟩
    · exact ⟨.keccakPermute, rfl, and_fullMask_eq_iff.mp hmatch⟩
    · exact ⟨.keccakAbsorb, rfl, and_fullMask_eq_iff.mp hmatch⟩
    · exact ⟨.sha3Pad (cmdN c), decide_eq_true (h13 rfl), and_operandMask_eq_iff.mp hmatch⟩

/-! ### The checks in their order (R128) -/

/-- The OPC map, by number (R124). -/
theorem commandOf_eq_none_iff {opc n : Byte} :
    commandOf opc n = none ↔ opc.toNat ∉ [0x01, 0x02, 0x03, 0x04, 0x10, 0x11, 0x12, 0x13] := by
  simp [commandOf, ← BitVec.toNat_inj, ite_eq_iff]

/-- The OPCs of the commands that have no operand (R124). -/
theorem commandOf_formatZ {opc : Byte} (n : Byte) (h : opc.toNat ∈ [0x01, 0x02, 0x04, 0x10, 0x11, 0x12]) :
    ∃ i, commandOf opc n = some i ∧ i.isFormatZ = true := by
  simp only [List.mem_cons, List.not_mem_nil, or_false] at h
  obtain h | h | h | h | h | h := h <;> simp [commandOf, ← BitVec.toNat_inj, h, Instr.isFormatZ]

theorem Instr.wellFormed_of_isFormatZ {i : Instr} (h : i.isFormatZ = true) : i.WellFormed := by
  cases i with
  | sha1Pad | sha3Pad => cases h
  | _ => rfl

/-- A word with a format-Z command's OPC and nothing else set is the command. -/
theorem decode_of_formatZ {c : Word} (i : Instr) (hz : i.isFormatZ = true) (hopc : c.toNat % 256 = (encode i).toNat)
    (hrsv : c.toNat / 65536 = 0) (hn : c.toNat / 256 % 256 = 0) : decode c = .ok i := by
  obtain rfl : c = encode i := BitVec.eq_of_toNat_eq (by omega)
  rw [decode_encode, if_pos (Instr.wellFormed_of_isFormatZ hz)]

/-- A word with a format-N command's OPC and no RSV is left to the range of N. -/
theorem decode_of_formatN {c : Word} {opc : Byte} (command : Byte → Instr)
    (henc : ∀ n, encode (command n) = formatNWord n opc) (hopc : c.toNat % 256 = opc.toNat) (hrsv : c.toNat / 65536 = 0) :
    decode c = if (command (BitVec.ofNat 8 (c.toNat / 256 % 256))).wellFormed = true
      then .ok (command (BitVec.ofNat 8 (c.toNat / 256 % 256))) else .error .badCount := by
  have hc : c = encode (command (BitVec.ofNat 8 (c.toNat / 256 % 256))) := by
    refine BitVec.eq_of_toNat_eq ?_
    rw [henc, formatNWord_toNat, BitVec.toNat_ofNat]
    omega
  conv_lhs => rw [hc, decode_encode]

/-- Settles O4: the first three clauses are the checks on OPC, RSV and the N of format Z; a word that passes them is an
encoding. -/
theorem decodeChecksInTheOrderOfR128 : Obligations.DecodeChecksInTheOrderOfR128 := by
  rintro c _ _ _ rfl rfl rfl
  have hrsvZero : cmdRsv c = 0 ↔ c.toNat / 65536 = 0 := by rw [← cmdRsv_toNat, ← BitVec.toNat_inj]; rfl
  have hnZero : cmdN c = 0 ↔ c.toNat / 256 % 256 = 0 := by rw [← cmdN_toNat, ← BitVec.toNat_inj]; rfl
  refine ⟨fun ho => ?_, fun ho hr => ?_, fun ho hr hn => ?_, fun ho hr hn => ?_, fun ho hr hn => ?_,
    decode_of_formatZ .sha1Init rfl, decode_of_formatZ .sha1Compress rfl, fun ho hr hn => ?_,
    decode_of_formatZ .sha1Padlen rfl, decode_of_formatZ .keccakClear rfl, decode_of_formatZ .keccakPermute rfl,
    decode_of_formatZ .keccakAbsorb rfl, fun ho hr hn => ?_⟩
  · rw [← cmdOpc_toNat] at ho
    simp only [decode, commandOf_eq_none_iff.mpr ho]
  · rw [← cmdOpc_toNat] at ho
    obtain ⟨i, hi⟩ := Option.ne_none_iff_exists'.mp fun hnone => commandOf_eq_none_iff.mp hnone ho
    rw [decode_of_commandOf hi, if_pos (mt hrsvZero.mp hr)]
  · rw [← cmdOpc_toNat] at ho
    obtain ⟨i, hi, hz⟩ := commandOf_formatZ (cmdN c) ho
    rw [decode_of_commandOf hi, if_neg (not_not.mpr (hrsvZero.mpr hr)), if_pos ⟨hz, mt hnZero.mp hn⟩]
  · simp [decode_of_formatN .sha1Pad (fun _ => rfl) ho hr, Instr.wellFormed, hn]
  · simp [decode_of_formatN .sha3Pad (fun _ => rfl) ho hr, Instr.wellFormed, hn]
  · simp [decode_of_formatN .sha1Pad (fun _ => rfl) ho hr, Instr.wellFormed, hn]
  · simp [decode_of_formatN .sha3Pad (fun _ => rfl) ho hr, Instr.wellFormed, hn]

/-- Settles O1: by O2, since each word written out is the encoding of its command. -/
theorem writtenOutWordsDecode : Obligations.WrittenOutWordsDecode := by
  refine ⟨?_, ?_, ?_, ?_, ?_, ?_, ?_, ?_⟩ <;> exact (decodeOkIffWordIsEncoding _ _).mpr (by decide)

end Sys2Proof

/-! Proofs of the statements about the encoding, 2: the frame of the commands (R124), and terms whose N is out of range. -/

namespace Sys2Proof

/-! ### A command writes all the registers of a block, or none (30_encoding.md R124) -/

theorem Instr.writes_h (i : Instr) (j k : Fin 5) : i.writes (.h k) = i.writes (.h j) := by cases i <;> rfl
theorem Instr.writes_mb (i : Instr) (j k : Fin 16) : i.writes (.mb k) = i.writes (.mb j) := by cases i <;> rfl
theorem Instr.writes_sLo (i : Instr) (j k : Fin 25) : i.writes (.sLo k) = i.writes (.sLo j) := by cases i <;> rfl
theorem Instr.writes_sHi (i : Instr) (j k : Fin 25) : i.writes (.sLo k) = i.writes (.sHi j) := by cases i <;> rfl
theorem Instr.writes_kbLo (i : Instr) (j k : Fin 17) : i.writes (.kbLo k) = i.writes (.kbLo j) := by cases i <;> rfl
theorem Instr.writes_kbHi (i : Instr) (j k : Fin 17) : i.writes (.kbLo k) = i.writes (.kbHi j) := by cases i <;> rfl

end Sys2Proof

namespace Sys2Proof.Machine

/-- Settles O8: `exec_wellFormed` says which blocks a command leaves, and a register of a block it leaves reads as before. -/
theorem commandsChangeOnlyWhatTheyWrite : Obligations.CommandsChangeOnlyWhatTheyWrite := by
  intro i s t hw he
  obtain ⟨x, hs, mb, l, kb, hexec, hx, hhs, hmb, hl, hkb⟩ := exec_wellFormed i s hw
  obtain rfl := Host.Outcome.next.inj (hexec.symm.trans he)
  refine ⟨fun r hstatus hr => ?_, hx, rfl, rfl, rfl, rfl, rfl, rfl, rfl, rfl⟩
  cases r with
  | status => exact absurd rfl hstatus
  | id | cmd | irqEn | lenLo | lenHi => rfl
  | h j => exact congrArg (·[j]) (hhs fun k => (i.writes_h j k).trans hr)
  | mb j => exact congrArg (·[j]) (hmb fun k => (i.writes_mb j k).trans hr)
  | sLo j => exact congrArg (loHalf ·[j]) (hl fun k => (i.writes_sLo j k).trans hr)
  | sHi j => exact congrArg (hiHalf ·[j]) (hl fun k => (i.writes_sHi j k).trans hr)
  | kbLo j => exact congrArg (loHalf ·[j]) (hkb fun k => (i.writes_kbLo j k).trans hr)
  | kbHi j => exact congrArg (hiHalf ·[j]) (hkb fun k => (i.writes_kbHi j k).trans hr)

/-- Settles O9: the count check of the meaning fails, and what is left is `raiseError`. -/
theorem outOfRangeCountRaisesBadCount : Obligations.OutOfRangeCountRaisesBadCount := by
  intro n s
  have herr : s.raiseError .badCount = { s with ERR := true, ERRCODE := if s.ERR then s.ERRCODE else 3 } :=
    s.raiseError_eq .badCount
  rw [← herr]
  exact ⟨fun hn => if_neg (Nat.not_le.mpr hn), fun hn => if_neg (Nat.not_le.mpr hn)⟩

end Sys2Proof.Machine

/-! Proofs of the statements about the bit utilities, 1: the rotations bit by bit, and that a rotation is undone by the
rest of the way round (40_bit_utilities.md R161, R162, R174). -/

namespace Sys2Proof.Machine

/-- Going n round and then the rest of the way round comes back, at any width. -/
theorem add_add_complement_mod {w i : Nat} (n : Nat) (hi : i < w) : (i + n + (w - n % w)) % w = i := by
  have hn : n % w < w := Nat.mod_lt n (Nat.zero_lt_of_lt hi)
  have hround : i + n + (w - n % w) = i + w * (n / w + 1) := by
    rw [Nat.mul_add_one]
    have := Nat.div_add_mod n w
    omega
  rw [hround, Nat.add_mul_mod_self_left, Nat.mod_eq_of_lt hi]

/-- A result bit of a rotation, by the bit it comes from (R161). -/
theorem getLsbD_rotl {w : Nat} (v : BitVec w) (n : Nat) {i : Nat} (hi : i < w) :
    (rotl v n).getLsbD i = v.getLsbD ((i + (w - n % w)) % w) := by
  have hn : n % w < w := Nat.mod_lt n (Nat.zero_lt_of_lt hi)
  rw [rotl_eq_rotateLeft, BitVec.getLsbD_rotateLeft]
  by_cases h : i < n % w
  · have hlow : i + (w - n % w) < w := by omega
    rw [decide_eq_true h, cond_true, Nat.mod_eq_of_lt hlow, Nat.add_comm]
  · have hhigh : i + (w - n % w) = i - n % w + w := by omega
    have hlt : i - n % w < w := by omega
    rw [decide_eq_false h, cond_false, decide_eq_true hi, Bool.true_and, hhigh, Nat.add_mod_right, Nat.mod_eq_of_lt hlt]

/-- A source bit of a rotation, by where it goes. -/
theorem getLsbD_rotl_add {w : Nat} (v : BitVec w) (n : Nat) {j : Nat} (hj : j < w) :
    (rotl v n).getLsbD ((j + n) % w) = v.getLsbD j := by
  rw [getLsbD_rotl v n (Nat.mod_lt _ (Nat.zero_lt_of_lt hj)), Nat.mod_add_mod, add_add_complement_mod n hj]

/-- A result bit of a right rotation: it is the bit that goes back to its place (R162). -/
theorem getLsbD_rotr {w : Nat} (v : BitVec w) (n : Nat) {i : Nat} (hi : i < w) :
    (rotr v n).getLsbD i = v.getLsbD ((i + n) % w) := by
  have hback : ((i + n) % w + (w - n % w) % w) % w = i := by
    rw [Nat.mod_add_mod, Nat.add_mod_mod, add_add_complement_mod n hi]
  have h := getLsbD_rotl_add v ((w - n % w) % w) (Nat.mod_lt (i + n) (Nat.zero_lt_of_lt hi))
  rwa [hback] at h

theorem rotl_rotl_complement {w : Nat} (v : BitVec w) {n : Nat} (hn : n < w) : rotl (rotl v n) (w - n) = v := by
  apply BitVec.eq_of_getLsbD_eq
  intro i hi
  have hback : ((i + n) % w + (w - n)) % w = i := by
    rw [Nat.mod_add_mod]
    simpa only [Nat.mod_eq_of_lt hn] using add_add_complement_mod n hi
  calc (rotl (rotl v n) (w - n)).getLsbD i
      = (rotl (rotl v n) (w - n)).getLsbD (((i + n) % w + (w - n)) % w) := by rw [hback]
    _ = (rotl v n).getLsbD ((i + n) % w) := getLsbD_rotl_add _ _ (Nat.mod_lt _ (Nat.zero_lt_of_lt hi))
    _ = v.getLsbD i := getLsbD_rotl_add v n hi

/-- Settles O47: the bit of `rotl` is read off the shift, and that of `rotr` is the one that `rotl` brings to bit i. -/
theorem rotationsMoveBitsModuloTheWidth : Obligations.RotationsMoveBitsModuloTheWidth :=
  fun _ v n _ hi => ⟨getLsbD_rotl v n hi, getLsbD_rotr v n hi⟩

end Sys2Proof.Machine

/-! Proofs of the statements about the bit utilities, 2: access to one bit (40_bit_utilities.md R163 to R166). -/

namespace Sys2Proof.Machine

/-- `1 << j` has bit j and no other. -/
theorem getLsbD_one_shiftLeft {w j : Nat} (hj : j < w) (k : Nat) : (1#w <<< j).getLsbD k = decide (k = j) := by
  rw [← BitVec.twoPow_eq, BitVec.getLsbD_twoPow, decide_eq_true hj, Bool.true_and, decide_eq_decide]
  exact eq_comm

/-- `v | (1 << j)` sets bit j and no other (R165). -/
theorem getLsbD_or_one_shiftLeft {w j : Nat} (v : BitVec w) (hj : j < w) (k : Nat) :
    (v ||| (1#w <<< j)).getLsbD k = if k = j then true else v.getLsbD k := by
  rw [BitVec.getLsbD_or, getLsbD_one_shiftLeft hj]
  by_cases hk : k = j
  · rw [if_pos hk, decide_eq_true hk, Bool.or_true]
  · rw [if_neg hk, decide_eq_false hk, Bool.or_false]

/-- `v ^ (1 << j)` inverts bit j and no other (R166). -/
theorem getLsbD_xor_one_shiftLeft {w j : Nat} (v : BitVec w) (hj : j < w) (k : Nat) :
    (v ^^^ (1#w <<< j)).getLsbD k = if k = j then !v.getLsbD k else v.getLsbD k := by
  rw [BitVec.getLsbD_xor, getLsbD_one_shiftLeft hj]
  by_cases hk : k = j
  · rw [if_pos hk, decide_eq_true hk, Bool.xor_true]
  · rw [if_neg hk, decide_eq_false hk, Bool.xor_false]

/-- Settles O48: each access checks the index first; the write to bit i from the other end is the write to bit w - 1 - i. -/
theorem bitAccessTouchesTheIndexedBit : Obligations.BitAccessTouchesTheIndexedBit := by
  intro w v i
  constructor
  · intro hi
    have hbe : w - 1 - i < w := by omega
    exact ⟨if_pos hi, if_pos hi,
      ⟨_, if_pos hi, fun k _ => getLsbD_or_one_shiftLeft v hi k⟩,
      ⟨_, if_pos hi, fun k _ => getLsbD_or_one_shiftLeft v hbe k⟩,
      ⟨_, if_pos hi, fun k _ => getLsbD_xor_one_shiftLeft v hi k⟩,
      ⟨_, if_pos hi, fun k _ => getLsbD_xor_one_shiftLeft v hbe k⟩⟩
  · intro hi
    have hout : ¬i < w := Nat.not_lt.mpr hi
    exact ⟨if_neg hout, if_neg hout, if_neg hout, if_neg hout, if_neg hout, if_neg hout⟩

end Sys2Proof.Machine

/-! Proofs of the statements about the bit utilities, 3: the reversals bit by bit, and their laws (40_bit_utilities.md R167
to R169, R174). -/

namespace Sys2Proof.Machine

theorem getLsbD_reverseBits {w : Nat} (v : BitVec w) {i : Nat} (hi : i < w) :
    (reverseBits v).getLsbD i = v.getLsbD (w - 1 - i) := by
  rw [reverseBits, getLsbD_ofBits, decide_eq_true hi, Bool.true_and]

theorem getLsbD_reverseBitsWithinBytes {w : Nat} (v : BitVec w) {i : Nat} (hi : i < w) :
    (reverseBitsWithinBytes v).getLsbD i = v.getLsbD (8 * (i / 8) + (7 - i % 8)) := by
  rw [reverseBitsWithinBytes, getLsbD_ofBits, decide_eq_true hi, Bool.true_and]

theorem getLsbD_reverseByteOrder {w : Nat} (v : BitVec w) {i : Nat} (hi : i < w) :
    (reverseByteOrder v).getLsbD i = v.getLsbD (8 * (w / 8 - 1 - i / 8) + i % 8) := by
  rw [reverseByteOrder, getLsbD_ofBits, decide_eq_true hi, Bool.true_and]

theorem reverseBits_reverseBits {w : Nat} (v : BitVec w) : reverseBits (reverseBits v) = v := by
  apply BitVec.eq_of_getLsbD_eq
  intro i hi
  rw [getLsbD_reverseBits _ hi, getLsbD_reverseBits v (by omega)]
  congr 1
  omega

theorem reverseBitsWithinBytes_reverseBitsWithinBytes {w : Nat} (v : BitVec w) (hw : w % 8 = 0) :
    reverseBitsWithinBytes (reverseBitsWithinBytes v) = v := by
  apply BitVec.eq_of_getLsbD_eq
  intro i hi
  rw [getLsbD_reverseBitsWithinBytes _ hi, getLsbD_reverseBitsWithinBytes v (by omega)]
  congr 1
  omega

theorem reverseByteOrder_reverseByteOrder {w : Nat} (v : BitVec w) (hw : w % 8 = 0) :
    reverseByteOrder (reverseByteOrder v) = v := by
  apply BitVec.eq_of_getLsbD_eq
  intro i hi
  rw [getLsbD_reverseByteOrder _ hi, getLsbD_reverseByteOrder v (by omega)]
  congr 1
  omega

theorem reverseByteOrder_reverseBitsWithinBytes {w : Nat} (v : BitVec w) (hw : w % 8 = 0) :
    reverseByteOrder (reverseBitsWithinBytes v) = reverseBits v := by
  apply BitVec.eq_of_getLsbD_eq
  intro i hi
  rw [getLsbD_reverseByteOrder _ hi, getLsbD_reverseBitsWithinBytes v (by omega), getLsbD_reverseBits v hi]
  congr 1
  omega

/-- The four laws of the reversals, at any width of whole bytes (R174). -/
theorem reversal_laws {w : Nat} (hw : w % 8 = 0) (x : BitVec w) :
    reverseBits (reverseBits x) = x ∧ reverseBitsWithinBytes (reverseBitsWithinBytes x) = x ∧
      reverseByteOrder (reverseByteOrder x) = x ∧ reverseBits x = reverseByteOrder (reverseBitsWithinBytes x) :=
  ⟨reverseBits_reverseBits x, reverseBitsWithinBytes_reverseBitsWithinBytes x hw, reverseByteOrder_reverseByteOrder x hw,
    (reverseByteOrder_reverseBitsWithinBytes x hw).symm⟩

/-- Settles O49: the laws hold at every width of whole bytes, by the position each reversal takes a bit from. -/
theorem rotationAndReversalLaws : Obligations.RotationAndReversalLaws := by
  refine ⟨fun w v i hi => getLsbD_reverseBits v hi, ?_, fun x n hn => rotl_rotl_complement x hn,
    fun x n hn => rotl_rotl_complement x hn, reversal_laws rfl, reversal_laws rfl⟩
  intro w v k q hw hk hq
  have hi : 8 * k + q < w := by omega
  have hbyte : (8 * k + q) / 8 = k := by omega
  have hbit : (8 * k + q) % 8 = q := by omega
  rw [getLsbD_reverseBitsWithinBytes v hi, getLsbD_reverseByteOrder v hi, hbyte, hbit]
  exact ⟨rfl, rfl⟩

end Sys2Proof.Machine

/-! Proofs of the statements about the bit utilities, 4: hex decoding undoes hex encoding (40_bit_utilities.md R171, R172,
R174). -/

namespace Sys2Proof.Machine

/-- The fold over the last d hex digits of x, most significant first, is x modulo 16^d: the first d digits of d + 1 are
those of x / 16, and the last digit is x modulo 16. -/
theorem hexFold_hexDigits (x d : Nat) :
    hexFold 0 ((List.range d).map fun k => hexDigit (x / 16 ^ (d - 1 - k) % 16)) = some (x % 16 ^ d) := by
  induction d generalizing x with
  | zero => simp [hexFold, Nat.mod_one]
  | succ d ih =>
    have hinit : ((List.range d).map fun k => hexDigit (x / 16 ^ (d + 1 - 1 - k) % 16)) =
        (List.range d).map fun k => hexDigit (x / 16 / 16 ^ (d - 1 - k) % 16) := by
      refine List.map_congr_left fun k hk => ?_
      have hk : k < d := List.mem_range.mp hk
      rw [Nat.div_div_eq_div_mul, ← Nat.pow_succ', show (d - 1 - k).succ = d + 1 - 1 - k by omega]
    have hlast : x / 16 ^ (d + 1 - 1 - d) % 16 = x % 16 := by
      rw [Nat.add_sub_cancel, Nat.sub_self, Nat.pow_zero, Nat.div_one]
    rw [List.range_succ, List.map_append, hexFold_append, hinit, ih, List.map_singleton, hlast, Option.bind_some, hexFold,
      hexValue_hexDigit _ (Nat.mod_lt x (by decide)), Nat.pow_succ', Nat.mod_mul, Nat.add_comm]
    rfl

theorem length_hexEncode {w : Nat} (v : BitVec w) : (hexEncode v).length = 2 * (w / 8) := by
  rw [hexEncode, List.length_map, List.length_range]

theorem hexFold_hexEncode {w : Nat} (v : BitVec w) (hw : w % 8 = 0) : hexFold 0 (hexEncode v) = some v.toNat := by
  have hdigits : 16 ^ (2 * (w / 8)) = 2 ^ w := by
    rw [show 16 = 2 ^ 4 from rfl, ← Nat.pow_mul, show 4 * (2 * (w / 8)) = w by omega]
  rw [hexEncode, hexFold_hexDigits, hdigits, Nat.mod_eq_of_lt v.isLt]

/-- The law of R174 at any width of one or more whole bytes. -/
theorem hexDecode_hexEncode {w : Nat} (v : BitVec w) (hw : w % 8 = 0) (hpos : 0 < w) :
    hexDecode w (hexEncode v) = some v := by
  have hlen := length_hexEncode v
  have hne : hexEncode v ≠ [] := List.ne_nil_of_length_pos (by omega)
  rw [hexDecode, if_neg hne, if_neg (by omega), hexFold_hexEncode v hw, Option.map_some, BitVec.ofNat_toNat,
    BitVec.setWidth_eq]

/-- Settles O50: the fold gives the value back, and the string is not empty and not too long. -/
theorem hexDecodeUndoesHexEncode : Obligations.HexDecodeUndoesHexEncode :=
  ⟨fun x => hexDecode_hexEncode x rfl (by decide), fun x => hexDecode_hexEncode x rfl (by decide)⟩

end Sys2Proof.Machine

/-! Proofs of the statements about SHA-1, 1: the message schedule and the rounds (41_sha1.md R205, R210, R211). -/

namespace Sys2Proof.Machine

/-- The recurrence of R205 at word t = 16 + n, inside the whole schedule, which holds the words of the shorter ones. -/
theorem schedule_recurrence (m : Vector Word 16) (n : Nat) (hn : n < 64) :
    (schedule m)[16 + n] =
      rotl ((schedule m)[13 + n] ^^^ (schedule m)[8 + n] ^^^ (schedule m)[2 + n] ^^^ (schedule m)[n]) 1 := by
  have hword (k : Nat) (hk : k < 16 + n) := schedule_getElem m n k hk (Nat.le_of_lt hn)
  rw [schedule_getElem m (n + 1) (16 + n) (by omega) hn, scheduleUpTo_last, hword (13 + n) (by omega),
    hword (8 + n) (by omega), hword (2 + n) (by omega), hword n (by omega)]

/-- Settles O12: the schedule starts with the block, and each later word follows the recurrence of R205. -/
theorem scheduleExpandsTheBlock : Obligations.ScheduleExpandsTheBlock := by
  refine fun m => ⟨fun t ht => schedule_getElem m 0 t ht (Nat.zero_le 64), fun t hlo hhi => ?_⟩
  obtain ⟨n, rfl⟩ := Nat.exists_eq_add_of_le hlo
  have h3 : 16 + n - 3 = 13 + n := by omega
  have h8 : 16 + n - 8 = 8 + n := by omega
  have h14 : 16 + n - 14 = 2 + n := by omega
  have h16 : 16 + n - 16 = n := by omega
  simp only [h3, h8, h14, h16]
  exact schedule_recurrence m n (by omega)

/-- Settles O13: one more round is `sha1Round` on the registers before it. -/
theorem roundsRunInOrder : Obligations.RoundsRunInOrder := by
  refine fun w r => ⟨rfl, ?_⟩
  rintro t ht p q f k rfl rfl rfl rfl
  exact ⟨rfl, rfl, rfl, rfl, rfl⟩

end Sys2Proof.Machine

/-! Proofs of the statements about SHA-1, 2: what each of the four commands leaves (R220, R222, R224, R225). -/

namespace Sys2Proof.Machine

/-! ### The bytes of the blocks the padding commands write -/

theorem byteOf_loHalf (v : Lane) {k : Nat} (hk : k < 4) : byteOf k (loHalf v) = byteOf k v := by
  apply BitVec.eq_of_getLsbD_eq
  intro i hi
  have hlow : 8 * k + i < 32 := by omega
  rw [byteOf, byteOf, BitVec.getLsbD_extractLsb', BitVec.getLsbD_extractLsb', getLsbD_loHalf, decide_eq_true hlow,
    Bool.true_and]

theorem byteOf_hiHalf (v : Lane) {k : Nat} (hk : k < 4) : byteOf k (hiHalf v) = byteOf (4 + k) v := by
  apply BitVec.eq_of_getLsbD_eq
  intro i hi
  have hlow : 8 * k + i < 32 := by omega
  have hshift : 32 + (8 * k + i) = 8 * (4 + k) + i := by omega
  rw [byteOf, byteOf, BitVec.getLsbD_extractLsb', BitVec.getLsbD_extractLsb', getLsbD_hiHalf, decide_eq_true hlow,
    Bool.true_and, hshift]

theorem getD_bytesBE64 (v : Lane) {j : Nat} (hj : j < 8) : (bytesBE64 v).getD j 0 = byteOf (7 - j) v := by
  interval_cases j <;> rfl

/-- Words 14 and 15 hold the eight bytes of the length, most significant first (R222, R225). -/
theorem mbByte_putLength_of_ge (len : Lane) (mb : Vector Word 16) (p : Fin 64) (hp : 56 ≤ p.val) :
    mbByte (putLength len mb) p = (bytesBE64 len).getD (p.val - 56) 0 := by
  rw [getD_bytesBE64 len (by omega), mbByte_eq]
  obtain hword | hword : p.val / 4 = 14 ∨ p.val / 4 = 15 := by omega
  · simp only [hword, putLength_14]
    rw [byteOf_hiHalf len (by omega)]
    congr 1
    omega
  · simp only [hword, putLength_15]
    rw [byteOf_loHalf len (by omega)]
    congr 1
    omega

/-- The bytes of the block SHA1_PAD N leaves: the length where it is written, and the padded bytes elsewhere (R222). -/
theorem mbByte_sha1PadBlock (len : Lane) (mb : Vector Word 16) (n : Nat) (p : Fin 64) :
    mbByte (sha1PadBlock len mb n) p =
      if n ≤ 55 ∧ 56 ≤ p.val then (bytesBE64 len).getD (p.val - 56) 0 else sha1PadByte mb n p := by
  by_cases hn : n ≤ 55
  · rw [sha1PadBlock, if_pos hn]
    by_cases hp : 56 ≤ p.val
    · rw [if_pos ⟨hn, hp⟩, mbByte_putLength_of_ge len _ p hp]
    · rw [if_neg fun h => hp h.2, mbByte_putLength len _ p (Nat.lt_of_not_le hp), mbByte_mbOfBytes]
  · rw [sha1PadBlock, if_neg hn, if_neg fun h => hn h.1, mbByte_mbOfBytes]

/-- The bytes of the block SHA1_PADLEN leaves (R225). -/
theorem mbByte_sha1LengthBlock (len : Lane) (p : Fin 64) :
    mbByte (sha1LengthBlock len) p = if p.val < 56 then 0 else (bytesBE64 len).getD (p.val - 56) 0 := by
  by_cases hp : p.val < 56
  · rw [if_pos hp, sha1LengthBlock, mbByte_putLength len _ p hp, mbByte, Vector.getElem_replicate]
    exact BitVec.extractLsb'_zero
  · rw [if_neg hp, sha1LengthBlock, mbByte_putLength_of_ge len _ p (Nat.le_of_not_lt hp)]

/-! ### The meanings, the end of the lifecycle written out -/

theorem exec_sha1Compress (s : State) :
    exec .sha1Compress s = .next { s with H := sha1Compress s.H s.MB, PEND := none, DONE := true } := rfl

theorem exec_sha1Padlen (s : State) :
    exec .sha1Padlen s = .next { s with MB := sha1LengthBlock s.LEN, XBLK := false, PEND := none, DONE := true } := rfl

theorem exec_sha1Pad {n : Byte} (hn : n.toNat ≤ 63) (s : State) :
    exec (.sha1Pad n) s = .next { s with
      MB := sha1PadBlock s.LEN s.MB n.toNat, XBLK := decide (56 ≤ n.toNat), PEND := none, DONE := true } := if_pos hn

/-- Settles O10: the word is the command's encoding, and the meaning is the update the statement writes out. -/
theorem sha1InitLoadsTheIV : Obligations.Sha1InitLoadsTheIV :=
  ⟨(decodeOkIffWordIsEncoding _ _).mpr ⟨rfl, rfl⟩, fun _ => rfl⟩

/-- Settles O11: `sha1Compress` adds the registers that the statement names. -/
theorem sha1CompressAddsTheWorkingRegisters : Obligations.Sha1CompressAddsTheWorkingRegisters := by
  refine ⟨(decodeOkIffWordIsEncoding _ _).mpr ⟨rfl, rfl⟩, ?_⟩
  rintro s r rfl
  exact exec_sha1Compress s

/-- Settles O14: the block is `sha1PadBlock`, in which only bytes 56 to 63 can differ from the padded bytes, and only for N at
most 55, where they are the length. -/
theorem sha1PadWritesTheFinalBlock : Obligations.Sha1PadWritesTheFinalBlock := by
  refine fun n s hn => ⟨(decodeOkIffWordIsEncoding _ _).mpr ⟨decide_eq_true hn, rfl⟩, _, exec_sha1Pad hn s,
    fun p hp => ?_, fun h55 => ?_⟩
  · have hnoLength : ¬(n.toNat ≤ 55 ∧ 56 ≤ p.val) := by omega
    rw [mbByte_sha1PadBlock, if_neg hnoLength]
    rfl
  · rw [sha1PadBlock, if_pos h55]
    exact ⟨putLength_14 _ _, putLength_15 _ _⟩

/-- Settles O15: the length is written over words 14 and 15 of a block of zeros. -/
theorem sha1PadlenWritesTheLengthBlock : Obligations.Sha1PadlenWritesTheLengthBlock := by
  refine ⟨(decodeOkIffWordIsEncoding _ _).mpr ⟨rfl, rfl⟩, fun s => ⟨_, exec_sha1Padlen s, fun k hk => ?_,
    putLength_14 _ _, putLength_15 _ _⟩⟩
  rw [sha1LengthBlock, putLength_getElem _ _ k hk, Vector.getElem_replicate]

end Sys2Proof.Machine

/-! Proofs of the statements about SHA-1, 3: the padding of a message (R213). -/

namespace Sys2Proof.Machine

/-- With its zero bytes the message ends eight bytes before the end of a block, the first that has room for the length. -/
theorem length_add_sha1ZeroCount (len : Nat) : len + 1 + sha1ZeroCount len = 64 * ((len + 8) / 64) + 56 := by
  unfold sha1ZeroCount
  omega

theorem sha1ZeroCount_le {len j : Nat} (h : (len + 1 + j) % 64 = 56) : sha1ZeroCount len ≤ j := by
  unfold sha1ZeroCount
  omega

/-- The length of everything before the length field. -/
theorem length_sha1Pad_body (m : List Byte) :
    (m ++ [0x80] ++ List.replicate (sha1ZeroCount m.length) 0x00).length = 64 * ((m.length + 8) / 64) + 56 := by
  rw [List.length_append, List.length_append, List.length_singleton, List.length_replicate, length_add_sha1ZeroCount]

theorem length_sha1Pad (m : List Byte) : (sha1Pad m).length = 64 * ((m.length + 8) / 64 + 1) := by
  rw [sha1Pad, List.length_append, length_sha1Pad_body]
  rfl

/-- Settles O52: the length is that of whole blocks, and L is the bit length because it is below 2^64. -/
theorem sha1PaddingFillsWholeBlocks : Obligations.Sha1PaddingFillsWholeBlocks := by
  refine fun m hm => ⟨length_sha1Pad m, _, _, rfl, ?_, ?_, fun j => sha1ZeroCount_le⟩
  · rw [BitVec.toNat_ofNat, Nat.mod_eq_of_lt hm]
  · rw [length_add_sha1ZeroCount, Nat.mul_add_mod]

/-- The padded message byte by byte: the message, 0x80, zeros, and the eight bytes of the bit length. -/
theorem getD_sha1Pad (m : List Byte) (i : Nat) : (sha1Pad m).getD i 0 =
    if i < m.length then m.getD i 0
    else if i = m.length then 0x80
    else if i < 64 * ((m.length + 8) / 64) + 56 then 0x00
    else (bytesBE64 (BitVec.ofNat 64 (8 * m.length))).getD (i - (64 * ((m.length + 8) / 64) + 56)) 0 := by
  have hbody := length_sha1Pad_body m
  have hmarked : (m ++ [(0x80 : Byte)]).length = m.length + 1 := List.length_append
  rw [sha1Pad]
  split_ifs with hmessage hmark hzero
  · rw [List.getD_append _ _ _ _ (by omega), List.getD_append _ _ _ _ (by omega), List.getD_append _ _ _ _ hmessage]
  · rw [List.getD_append _ _ _ _ (by omega), List.getD_append _ _ _ _ (by omega),
      List.getD_append_right _ _ _ _ (by omega), hmark, Nat.sub_self]
    rfl
  · rw [List.getD_append _ _ _ _ (by omega), List.getD_append_right _ _ _ _ (by omega), List.getD_replicate]
    have := length_add_sha1ZeroCount m.length
    omega
  · rw [List.getD_append_right _ _ _ _ (by omega), hbody]

end Sys2Proof.Machine

/-! Proofs of the statements about SHA-1, 4: the last commands of the host's procedure leave the digest of the padded message
(R231 to R233). -/

namespace Sys2Proof.Machine

/-- Blocks with the same bytes are equal. -/
theorem mb_ext {a b : Vector Word 16} (h : ∀ p, mbByte a p = mbByte b p) : a = b := by
  rw [← mbOfBytes_mbByte a, ← mbOfBytes_mbByte b, funext h]

/-- Block q of the padded message, as the MB it is compressed from. -/
def sha1PaddedBlock (m : List Byte) (q : Nat) : Vector Word 16 := mbOfList (((sha1Pad m).drop (64 * q)).take 64)

theorem mbByte_sha1PaddedBlock (m : List Byte) (q : Nat) (p : Fin 64) :
    mbByte (sha1PaddedBlock m q) p = (sha1Pad m).getD (64 * q + p.val) 0 := by
  rw [sha1PaddedBlock, mbOfList_block, mbByte_mbOfBytes]

/-- MB holds the bytes of the message after its whole blocks, from byte 0 on; its other bytes are free. -/
def HoldsTail (mb : Vector Word 16) (m : List Byte) : Prop :=
  ∀ p : Fin 64, p.val < m.length % 64 → mbByte mb p = m.getD (64 * (m.length / 64) + p.val) 0

/-- The padded block after the whole blocks of the message is what SHA1_PAD leaves. -/
theorem sha1PaddedBlock_eq_sha1PadBlock {m : List Byte} {mb : Vector Word 16} (hmb : HoldsTail mb m) :
    sha1PaddedBlock m (m.length / 64) = sha1PadBlock (BitVec.ofNat 64 (8 * m.length)) mb (m.length % 64) := by
  refine mb_ext fun p => ?_
  have hdiv := Nat.div_add_mod m.length 64
  rw [mbByte_sha1PaddedBlock, getD_sha1Pad, mbByte_sha1PadBlock, sha1PadByte]
  by_cases hmessage : p.val < m.length % 64
  · rw [if_pos (by omega), if_neg (by omega), if_pos hmessage, hmb p hmessage]
  · by_cases hmark : p.val = m.length % 64
    · rw [if_neg (by omega), if_pos (by omega), if_neg (by omega), if_neg hmessage, if_pos hmark]
    · rw [if_neg (by omega), if_neg (by omega)]
      by_cases hlength : m.length % 64 ≤ 55 ∧ 56 ≤ p.val
      · rw [if_neg (by omega), if_pos hlength]
        congr 1
        omega
      · rw [if_pos (by omega), if_neg hlength, if_neg hmessage, if_neg hmark]

/-- With no room for the length in that block, the next padded block is what SHA1_PADLEN leaves. -/
theorem sha1PaddedBlock_eq_sha1LengthBlock {m : List Byte} (hm : 56 ≤ m.length % 64) :
    sha1PaddedBlock m (m.length / 64 + 1) = sha1LengthBlock (BitVec.ofNat 64 (8 * m.length)) := by
  refine mb_ext fun p => ?_
  rw [mbByte_sha1PaddedBlock, getD_sha1Pad, mbByte_sha1LengthBlock, if_neg (by omega), if_neg (by omega)]
  by_cases hp : p.val < 56
  · rw [if_pos (by omega), if_pos hp]
  · rw [if_neg (by omega), if_neg hp]
    congr 1
    omega

/-- The chain over the padded message goes over the whole blocks of the message first, and then over the `b` blocks left. -/
theorem sha1Chain_blocksOf_sha1Pad (m : List Byte) (b : Nat) :
    sha1Chain sha1IV (blocksOf 64 (m.length / 64 + b) (sha1Pad m)) =
      sha1Chain (sha1Chain sha1IV (blocksOf 64 (m.length / 64) m))
        (blocksOf 64 b ((sha1Pad m).drop (64 * (m.length / 64)))) := by
  have hwhole : 64 * (m.length / 64) ≤ m.length := Nat.mul_div_le m.length 64
  obtain ⟨tl, htl⟩ := sha1Pad_eq_append m
  have hblocks : blocksOf 64 (m.length / 64) (sha1Pad m) = blocksOf 64 (m.length / 64) m := by
    rw [htl, blocksOf_append 64 m tl _ hwhole]
  have hlen := length_sha1Pad m
  rw [blocksOf_add 64 _ _ b (by omega), hblocks, sha1Chain, List.foldl_append]
  rfl

/-- The digest words of a message whose length fits into its last block. -/
theorem sha1DigestWords_of_le {m : List Byte} (hm : m.length % 64 ≤ 55) : sha1DigestWords m =
    sha1Compress (sha1Chain sha1IV (blocksOf 64 (m.length / 64) m)) (sha1PaddedBlock m (m.length / 64)) := by
  have hcount : (sha1Pad m).length / 64 = m.length / 64 + 1 := by
    rw [length_sha1Pad]
    omega
  rw [sha1DigestWords, hcount, sha1Chain_blocksOf_sha1Pad]
  rfl

/-- The digest words of a message whose length takes a block of its own. -/
theorem sha1DigestWords_of_ge {m : List Byte} (hm : 56 ≤ m.length % 64) : sha1DigestWords m =
    sha1Compress (sha1Compress (sha1Chain sha1IV (blocksOf 64 (m.length / 64) m)) (sha1PaddedBlock m (m.length / 64)))
      (sha1PaddedBlock m (m.length / 64 + 1)) := by
  have hcount : (sha1Pad m).length / 64 = m.length / 64 + 2 := by
    rw [length_sha1Pad]
    omega
  rw [sha1DigestWords, hcount, sha1Chain_blocksOf_sha1Pad, sha1PaddedBlock, sha1PaddedBlock, Nat.mul_add_one,
    ← List.drop_drop]
  rfl

/-- Settles O54: the blocks the commands leave in MB are the last blocks of the padded message, one or two as XBLK says. The
bound on the message is not used, because LEN and the padding hold its bit length modulo 2^64 alike (log entry 23). -/
theorem sha1FinalCommandsComputeTheDigest : Obligations.Sha1FinalCommandsComputeTheDigest := by
  rintro m s n - rfl hlen hH hmb
  have hn : (BitVec.ofNat 8 (m.length % 64)).toNat = m.length % 64 := by
    rw [BitVec.toNat_ofNat]
    omega
  have hpad := sha1PaddedBlock_eq_sha1PadBlock hmb
  refine ⟨_, _, exec_sha1Pad (by omega) s, exec_sha1Compress _, fun hx => ?_, fun hx => ?_⟩
  · have hfits : m.length % 64 ≤ 55 := by
      have := of_decide_eq_false hx
      omega
    rw [sha1Digest, sha1DigestWords_of_le hfits, hpad, hH, hlen, hn]
  · have hfull : 56 ≤ m.length % 64 := hn ▸ of_decide_eq_true hx
    refine ⟨_, _, exec_sha1Padlen _, exec_sha1Compress _, ?_⟩
    rw [sha1Digest, sha1DigestWords_of_ge hfull, hpad, sha1PaddedBlock_eq_sha1LengthBlock hfull, hH, hlen, hn]

end Sys2Proof.Machine

/-! Proofs of the statements about SHA-1, 5: the digest bytes through the register window (R230, 42_sha3_keccak.md R295). -/

namespace Sys2Proof.Machine

/-- The chaining values, word by word. -/
theorem toList_chaining (h : Vector Word 5) : h.toList = [h[0], h[1], h[2], h[3], h[4]] := by
  calc h.toList = (Vector.ofFn fun i : Fin 5 => h[i.val]).toList := by rw [Vector.ofFn_getElem]
    _ = [h[0], h[1], h[2], h[3], h[4]] := rfl

/-- The bytes of a lane, least significant first, are those of its low half and then those of its high half. -/
theorem bytesLE64_eq_halves (v : Lane) : bytesLE64 v =
    [byteOf 0 (loHalf v), byteOf 1 (loHalf v), byteOf 2 (loHalf v), byteOf 3 (loHalf v)] ++
      [byteOf 0 (hiHalf v), byteOf 1 (hiHalf v), byteOf 2 (hiHalf v), byteOf 3 (hiHalf v)] := by
  simp [bytesLE64, byteOf_loHalf, byteOf_hiHalf]

/-- Settles O51: a digest word is a read of H, and a digest lane is the reads of its halves, low half first. -/
theorem digestsReadOutThroughTheWindow : Obligations.DigestsReadOutThroughTheWindow := by
  intro s be le hbe hle
  obtain rfl : be = bytesBE32 := funext hbe
  have hlane (v : Lane) : bytesLE64 v = le (loHalf v) ++ le (hiHalf v) := by
    rw [bytesLE64_eq_halves, hle, hle]
    rfl
  constructor
  · rw [sha1DigestBytes, toList_chaining]
    rfl
  · simp only [squeeze, hlane, List.flatMap_cons, List.flatMap_nil, List.append_nil, List.append_assoc]
    rfl

end Sys2Proof.Machine

/-! Proofs of the statements about Keccak, 1: the step mappings θ, ρ, π and χ (42_sha3_keccak.md R261 to R266). -/

namespace Sys2Proof.Machine

/-! ### θ (R261) -/

/-- C[x] in linear indices: the five lanes of column x. -/
theorem getElem_thetaC (a : Lanes) (x : Fin 5) :
    (thetaC a)[x] = a[x.val] ^^^ a[5 + x.val] ^^^ a[10 + x.val] ^^^ a[15 + x.val] ^^^ a[20 + x.val] := by
  simp [thetaC, laneAt]

theorem getElem_thetaD (par : Vector Lane 5) (x : Fin 5) : (thetaD par)[x] = par[x - 1] ^^^ rotl par[x + 1] 1 := by
  simp [thetaD]

/-- Settles O20: the coordinates x - 1 and x + 1 of `Fin 5` are the x + 4 and x + 1 modulo 5 of the statement. -/
theorem thetaXorsTheColumnParities : Obligations.ThetaXorsTheColumnParities := by
  intro a par d hpar hd x y hx hy
  have hC (z : Fin 5) : (thetaC a)[z] = par z.val := by rw [getElem_thetaC, hpar z.val z.isLt]
  have hD : (thetaD (thetaC a))[(⟨x, hx⟩ : Fin 5)] = d x := by
    rw [getElem_thetaD, hC, hC, hd x hx, Fin.val_sub, Fin.val_add, Nat.add_comm x 4]
    rfl
  rw [theta, getElem_ofLanes _ x y hx hy, hD]
  rfl

/-! ### ρ (R262, R263) -/

/-- The walk does not come to a lane twice. -/
theorem rhoIndex_ne_of_lt : ∀ t < 24, ∀ u < t, rhoIndex t ≠ rhoIndex u := by decide

/-- The walk does not come to lane (0, 0). -/
theorem rhoIndex_ne_zero : ∀ t < 24, rhoIndex t ≠ 0 := by decide

/-- The walk comes to every other lane. -/
theorem exists_rhoIndex_eq : ∀ i : Fin 25, i ≠ 0 → ∃ t < 24, rhoIndex t = i := by decide

/-- The table has at the lane of step t the offset of step t. -/
theorem rhoOffsets_rhoIndex : ∀ t < 24, rhoOffsets[rhoIndex t] = (t + 1) * (t + 2) / 2 % 64 := by decide

theorem rotl_zero {w : Nat} (v : BitVec w) : rotl v 0 = v := if_pos (Nat.zero_mod w)

theorem getElem_rho (a : Lanes) (i : Fin 25) : (rho a)[i] = rotl a[i] rhoOffsets[i] := by
  simp [rho]

/-- The walk leaves in the lane of step t its rotation by the offset of step t. -/
theorem rhoWalk_rhoIndex (a : Lanes) {t : Nat} (ht : t < 24) :
    (rhoWalk a)[rhoIndex t] = rotl a[rhoIndex t] ((t + 1) * (t + 2) / 2 % 64) := by
  obtain ⟨d, hd⟩ := Nat.exists_eq_add_of_le (show t + 1 ≤ 24 from ht)
  rw [rhoWalk, hd]
  exact rhoWalkUpTo_index a t d fun u htu hu => rhoIndex_ne_of_lt u (by omega) t htu

/-- A lane other than (0, 0) is the lane of one step of the walk, and lane (0, 0) has the offset 0. -/
theorem getElem_rhoWalk (a : Lanes) (i : Fin 25) : (rhoWalk a)[i] = (rho a)[i] := by
  rw [getElem_rho]
  by_cases h0 : i = 0
  · subst h0
    calc (rhoWalk a)[0] = a[0] := rhoWalkUpTo_of_ne a 0 (by decide) 24 fun t ht h => rhoIndex_ne_zero t ht (Fin.ext h)
      _ = rotl a[0] rhoOffsets[0] := (rotl_zero _).symm
  · obtain ⟨t, ht, rfl⟩ := exists_rhoIndex_eq i h0
    rw [rhoWalk_rhoIndex a ht, rhoOffsets_rhoIndex t ht]

/-- Settles O21: the two maps agree lane by lane. -/
theorem rhoWalkAgreesWithItsTable : Obligations.RhoWalkAgreesWithItsTable :=
  fun a => Vector.ext fun i hi => getElem_rhoWalk a ⟨i, hi⟩

/-! ### π and χ (R264, R266) -/

/-- Settles O22: the coordinate x + 3y of `Fin 5` is the one modulo 5. -/
theorem piMovesTheLanes : Obligations.PiMovesTheLanes := by
  intro a x y hx hy
  have hcol : ((⟨x, hx⟩ : Fin 5) + 3 * ⟨y, hy⟩).val = (x + 3 * y) % 5 := by simp [Fin.val_add, Fin.val_mul]
  rw [Sys2Proof.Machine.pi, getElem_ofLanes _ x y hx hy]
  simp only [laneAt, hcol]

/-- Settles O23: the coordinates x + 1 and x + 2 of `Fin 5` are those modulo 5. -/
theorem chiReadsItsInputOnly : Obligations.ChiReadsItsInputOnly := by
  intro a x y hx hy
  rw [chi, getElem_ofLanes _ x y hx hy]
  rfl

end Sys2Proof.Machine

/-! Proofs of the statements about Keccak, 2: the round constants and the rounds (42_sha3_keccak.md R267 to R270, R284). -/

namespace Sys2Proof.Machine

/-- Settles O24, round by round: the generator is a closed computation of at most 167 steps of its register. -/
theorem generatorGivesTheRoundConstants : Obligations.GeneratorGivesTheRoundConstants := by
  unfold Obligations.GeneratorGivesTheRoundConstants
  decide +kernel

/-- Settles O25: ι is a write of lane 0, and the rounds are a fold over the round indices. -/
theorem keccakRunsTwentyFourRounds : Obligations.KeccakRunsTwentyFourRounds := by
  refine ⟨fun a ir => ⟨?_, fun j hpos hj => ?_⟩, fun _ _ => rfl, fun a => keccakRounds_eq_foldl a 24 (Nat.le_refl 24)⟩
  · rw [generatorGivesTheRoundConstants, iota, Vector.getElem_set_self]
  · rw [iota, Vector.getElem_set_ne _ _ (Nat.ne_of_lt hpos)]

end Sys2Proof.Machine

/-! Proofs of the statements about Keccak, 3: what each of the four commands leaves (42_sha3_keccak.md R290 to R293). -/

namespace Sys2Proof.Machine

/-! ### The meanings, the end of the lifecycle written out -/

theorem exec_keccakClear (s : State) :
    exec .keccakClear s = .next { s with S := Vector.replicate 25 0, PEND := none, DONE := true } := rfl

theorem exec_keccakPermute (s : State) :
    exec .keccakPermute s = .next { s with S := keccakF s.S, PEND := none, DONE := true } := rfl

theorem exec_keccakAbsorb (s : State) :
    exec .keccakAbsorb s = .next { s with S := absorbLanes s.S s.KB, PEND := none, DONE := true } := rfl

theorem exec_sha3Pad {n : Byte} (hn : n.toNat ≤ 135) (s : State) :
    exec (.sha3Pad n) s = .next { s with KB := sha3PadBlock s.KB n.toNat, PEND := none, DONE := true } := if_pos hn

/-! ### The effects -/

theorem xorBlock_zero (a : Lanes) : xorBlock a (Vector.replicate 17 0) = a := by
  refine Vector.ext fun j hj => ?_
  by_cases hrate : j < 17
  · rw [xorBlock_rate a _ j hrate, Vector.getElem_replicate]
    exact BitVec.xor_zero
  · exact xorBlock_capacity a _ j (Nat.le_of_not_lt hrate) hj

/-- The absorb step on 17 lanes is that on the list of their bytes (R287, R293). -/
theorem absorb_ofFn_kbByte (a : Lanes) (kb : Vector Lane 17) : absorb a (List.ofFn (kbByte kb)) = absorbLanes a kb := by
  rw [absorb, kbOfList_ofFn, kbOfBytes_kbByte]

theorem kbByte_sha3PadBlock (kb : Vector Lane 17) (n : Nat) (p : Fin 136) :
    kbByte (sha3PadBlock kb n) p = sha3PadByte kb n p := kbByte_kbOfBytes _ p

/-- Settles O16: the word is the encoding of the command, and the update is the one of its meaning. -/
theorem keccakClearZeroesS : Obligations.KeccakClearZeroesS :=
  ⟨(decodeOkIffWordIsEncoding _ _).mpr ⟨rfl, rfl⟩, exec_keccakClear⟩

/-- Settles O17: the word is the encoding of the command, and the update is the one of its meaning. -/
theorem keccakPermutePermutesS : Obligations.KeccakPermutePermutesS :=
  ⟨(decodeOkIffWordIsEncoding _ _).mpr ⟨rfl, rfl⟩, exec_keccakPermute⟩

/-- Settles O18: the array that is permuted is `xorBlock`, which is S itself for KB = 0. -/
theorem keccakAbsorbXorsThenPermutes : Obligations.KeccakAbsorbXorsThenPermutes := by
  refine ⟨(decodeOkIffWordIsEncoding _ _).mpr ⟨rfl, rfl⟩, fun s => ⟨⟨xorBlock s.S s.KB, xorBlock_rate s.S s.KB,
    xorBlock_capacity s.S s.KB, exec_keccakAbsorb s⟩, fun hkb => ?_⟩⟩
  rw [exec_keccakAbsorb, exec_keccakPermute, absorbLanes, hkb, xorBlock_zero]

/-- Settles O19: bytes 0 to 134 are written in one go, and bit 7 of byte 135 is set over 0x06 or 0x00. -/
theorem sha3PadWritesTheFinalBlock : Obligations.Sha3PadWritesTheFinalBlock := by
  refine fun n s hn => ⟨(decodeOkIffWordIsEncoding _ _).mpr ⟨decide_eq_true hn, rfl⟩, _, exec_sha3Pad hn s,
    fun p hp => ?_, ?_⟩
  · rw [kbByte_sha3PadBlock]
    exact if_neg (Nat.ne_of_lt hp)
  · rw [kbByte_sha3PadBlock]
    by_cases hlast : n.toNat = 135
    · simp [sha3PadByte, hlast]
    · simp [sha3PadByte, hlast, Ne.symm hlast, Nat.not_lt.mpr hn]

/-- Settles O26: KB is the block of its own bytes. -/
theorem keccakAbsorbAbsorbsTheBytesOfKB : Obligations.KeccakAbsorbAbsorbsTheBytesOfKB := by
  intro s
  rw [exec_keccakAbsorb, absorb_ofFn_kbByte]

end Sys2Proof.Machine

/-! Proofs of the statements about Keccak, 4: the padding of a message (42_sha3_keccak.md R286). -/

namespace Sys2Proof.Machine

/-- With one byte left in its last block the message gets the two marks in one byte. -/
theorem sha3Pad_of_eq {m : List Byte} (hm : m.length % 136 = 135) : sha3Pad m = m ++ [0x86] :=
  if_pos (by omega)

theorem sha3Pad_of_ne {m : List Byte} (hm : m.length % 136 ≠ 135) :
    sha3Pad m = m ++ [0x06] ++ List.replicate (134 - m.length % 136) 0x00 ++ [0x80] := by
  rw [sha3Pad, if_neg (by omega), Nat.sub_right_comm]

theorem length_sha3Pad (m : List Byte) : (sha3Pad m).length = 136 * (m.length / 136 + 1) := by
  by_cases hm : m.length % 136 = 135
  · rw [sha3Pad_of_eq hm, List.length_append, List.length_singleton]
    omega
  · rw [sha3Pad_of_ne hm]
    simp only [List.length_append, List.length_singleton, List.length_replicate]
    omega

/-- Settles O53: the two forms of the padding, each with its length. -/
theorem sha3PaddingFillsWholeBlocks : Obligations.Sha3PaddingFillsWholeBlocks :=
  fun m => ⟨length_sha3Pad m, sha3Pad_of_eq, fun hm => ⟨_, sha3Pad_of_ne hm⟩⟩

/-- The padded message byte by byte, as R290 writes its last block: the message, 0x06 and zeros, and then bit 7 of the last
byte set. -/
theorem getD_sha3Pad (m : List Byte) {i : Nat} (hi : i < 136 * (m.length / 136 + 1)) : (sha3Pad m).getD i 0 =
    let b : Byte := if i < m.length then m.getD i 0 else if i = m.length then 0x06 else 0x00
    if i = 136 * (m.length / 136) + 135 then b ||| 0x80 else b := by
  have hwhole := Nat.div_add_mod m.length 136
  by_cases hmessage : i < m.length
  · obtain ⟨tl, htl⟩ := sha3Pad_eq_append m
    rw [htl, List.getD_append _ _ _ _ hmessage, if_neg (by omega), if_pos hmessage]
  rw [if_neg hmessage]
  by_cases hm : m.length % 136 = 135
  · have hmark : i = m.length := by omega
    rw [sha3Pad_of_eq hm, List.getD_append_right _ _ _ _ (by omega), if_pos (by omega), if_pos hmark, hmark, Nat.sub_self]
    rfl
  · have hmarked : (m ++ [(0x06 : Byte)]).length = m.length + 1 := List.length_append
    have hbody : (m ++ [(0x06 : Byte)] ++ List.replicate (134 - m.length % 136) 0x00).length =
        136 * (m.length / 136) + 135 := by
      rw [List.length_append, hmarked, List.length_replicate]
      omega
    rw [sha3Pad_of_ne hm]
    obtain hmark | ⟨hzero, hlt⟩ | hlast : i = m.length ∨ (m.length < i ∧ i < 136 * (m.length / 136) + 135) ∨
        i = 136 * (m.length / 136) + 135 := by omega
    · rw [List.getD_append _ _ _ _ (by omega), List.getD_append _ _ _ _ (by omega),
        List.getD_append_right _ _ _ _ (by omega), if_neg (by omega), if_pos hmark, hmark, Nat.sub_self]
      rfl
    · rw [List.getD_append _ _ _ _ (by omega), List.getD_append_right _ _ _ _ (by omega), List.getD_replicate,
        if_neg (by omega), if_neg (by omega)]
      omega
    · rw [List.getD_append_right _ _ _ _ (by omega), hbody, if_pos hlast, if_neg (by omega), hlast, Nat.sub_self]
      rfl

end Sys2Proof.Machine

/-! Proofs of the statements about Keccak, 5: the last commands of the host's procedure leave the digest of the padded message
(42_sha3_keccak.md R296, R297). -/

namespace Sys2Proof.Machine

/-- Blocks with the same bytes are equal. -/
theorem kb_ext {a b : Vector Lane 17} (h : ∀ p, kbByte a p = kbByte b p) : a = b := by
  rw [← kbOfBytes_kbByte a, ← kbOfBytes_kbByte b, funext h]

/-- The last block of the padded message, as the KB it is absorbed from. -/
def sha3LastBlock (m : List Byte) : Vector Lane 17 := kbOfList (((sha3Pad m).drop (136 * (m.length / 136))).take 136)

theorem kbByte_sha3LastBlock (m : List Byte) (p : Fin 136) :
    kbByte (sha3LastBlock m) p = (sha3Pad m).getD (136 * (m.length / 136) + p.val) 0 := by
  rw [sha3LastBlock, kbOfList_block, kbByte_kbOfBytes]

/-- The last padded block is what SHA3_PAD leaves of a KB that holds the bytes of the message after its whole blocks. -/
theorem sha3PadBlock_eq_sha3LastBlock {m : List Byte} {kb : Vector Lane 17}
    (hkb : ∀ p : Fin 136, p.val < m.length % 136 → kbByte kb p = m.getD (136 * (m.length / 136) + p.val) 0) :
    sha3PadBlock kb (m.length % 136) = sha3LastBlock m := by
  refine kb_ext fun p => ?_
  have hmessage : 136 * (m.length / 136) + p.val < m.length ↔ p.val < m.length % 136 := by omega
  have hmark : 136 * (m.length / 136) + p.val = m.length ↔ p.val = m.length % 136 := by omega
  rw [kbByte_sha3PadBlock, kbByte_sha3LastBlock, getD_sha3Pad m (by omega), sha3PadByte]
  simp only [hmessage, hmark, Nat.add_left_cancel_iff]
  by_cases hp : p.val < m.length % 136
  · rw [hkb p hp]
  · rw [if_neg hp, if_neg hp]

/-- The absorption of the padded message is that of the whole blocks of the message and then that of the last block. -/
theorem sha3Lanes_eq_absorbLanes (m : List Byte) : sha3Lanes m =
    absorbLanes ((blocksOf 136 (m.length / 136) m).foldl absorb (Vector.replicate 25 0)) (sha3LastBlock m) := by
  have hwhole : 136 * (m.length / 136) ≤ m.length := Nat.mul_div_le m.length 136
  have hlen := length_sha3Pad m
  have hcount : (sha3Pad m).length / 136 = m.length / 136 + 1 := by omega
  obtain ⟨tl, htl⟩ := sha3Pad_eq_append m
  have hblocks : blocksOf 136 (m.length / 136) (sha3Pad m) = blocksOf 136 (m.length / 136) m := by
    rw [htl, blocksOf_append 136 m tl _ hwhole]
  rw [sha3Lanes, hcount, blocksOf_add 136 _ _ 1 (by omega), hblocks, List.foldl_append]
  rfl

/-- Settles O55: the block SHA3_PAD leaves in KB is the last block of the padded message, and KECCAK_ABSORB absorbs it. -/
theorem sha3FinalCommandsComputeTheDigest : Obligations.Sha3FinalCommandsComputeTheDigest := by
  rintro m s n rfl hS hkb
  have hn : (BitVec.ofNat 8 (m.length % 136)).toNat = m.length % 136 := by
    rw [BitVec.toNat_ofNat]
    omega
  refine ⟨_, _, exec_sha3Pad (by omega) s, exec_keccakAbsorb _, ?_⟩
  rw [sha3Digest, sha3Lanes_eq_absorbLanes, ← sha3PadBlock_eq_sha3LastBlock hkb, hS, hn]

end Sys2Proof.Machine

/-! Proofs of the statements about errors: what a write to CMD does (60_exceptions.md R331), and that no step from a state of the
hardware stops the machine (R330, 10_state.md R44). -/

namespace Sys2Proof.Machine

/-! ### A write to CMD -/

/-- While busy every word is refused, legal or not. -/
theorem State.offerCommand_of_busy {s : State} (hb : s.busy = true) (c : Word) : s.offerCommand c = s.raiseError .busy :=
  if_pos hb

/-- While idle an illegal word is refused with the decoder's code. -/
theorem State.offerCommand_of_error {s : State} {c : Word} {e : ErrCode} (hb : s.busy = false) (hd : decode c = .error e) :
    s.offerCommand c = s.raiseError e := by
  simp [State.offerCommand, hb, hd]

/-- While idle a legal word is accepted. -/
theorem State.offerCommand_of_ok {s : State} {c : Word} {i : Instr} (hb : s.busy = false) (hd : decode c = .ok i) :
    s.offerCommand c = s.accept c := by
  simp [State.offerCommand, hb, hd]

/-- A 32-bit write to CMD offers the word and is answered `Ok`, whether it is refused or accepted (20_memory.md R86). -/
theorem step_write_cmd {s : State} {c : Word} {rest : List Event} (h : s.inbox = .write .bits32 0x008 c :: rest) :
    step s = .next ((State.offerCommand c { s with inbox := rest }).respond .ok) :=
  step_write_reg .cmd h

/-- A write to CMD that is refused records its error, the code only if none was recorded, and has no other effect
(60_exceptions.md R333, R334). -/
theorem step_write_cmd_refused {s : State} {c : Word} {rest : List Event} {e : ErrCode}
    (h : s.inbox = .write .bits32 0x008 c :: rest)
    (he : State.offerCommand c { s with inbox := rest } = State.raiseError e { s with inbox := rest }) :
    step s = .next { s with
      inbox := rest, reply := some .ok, ERR := true, ERRCODE := if s.ERR then s.ERRCODE else errBits e } := by
  rw [step_write_cmd h, he, State.raiseError_eq]
  rfl

/-- Settles O6: busy, the decoder's error and the legal word are the three cases of `offerCommand`. -/
theorem cmdWriteRefusesOrAccepts : Obligations.CmdWriteRefusesOrAccepts := by
  intro s c rest h
  refine ⟨fun hb => step_write_cmd_refused h (State.offerCommand_of_busy (s := { s with inbox := rest }) hb c), fun hb => ?_⟩
  have hillegal {e : ErrCode} (hd : decode c = .error e) := step_write_cmd_refused h (State.offerCommand_of_error hb hd)
  refine ⟨hillegal, hillegal, hillegal, fun i hd => ?_⟩
  rw [step_write_cmd h, State.offerCommand_of_ok (s := { s with inbox := rest }) hb hd]
  rfl

/-! ### Progress -/

/-- The engine's step answers a next state: the invariant makes the word in PEND legal, and a legal word's command completes. -/
theorem State.Inv.exists_engineStep {s : State} (h : s.Inv) : ∃ t, Machine.engineStep s = .next t := by
  obtain ⟨-, he⟩ | ⟨c, i, -, hd, he⟩ | ⟨c, e, hp, hd, -⟩ := engineStep_cases s
  · exact ⟨s, he⟩
  · obtain ⟨t, ht, -⟩ := everyCommandCompletesWithoutError i s (wellFormed_of_decode hd)
    exact ⟨t, he.trans ht⟩
  · obtain ⟨i, hok⟩ := h.pendLegal c hp
    cases hd.symm.trans hok

/-- Settles O42, by cases on the step: a host transaction or a reset always answers a next state, and the engine's step does
under the invariant, which taking an entry off the inbox keeps. -/
theorem everyStepAnswersANextState : Obligations.EveryStepAnswersANextState := by
  intro s h
  obtain ⟨-, hs⟩ | ⟨rest, -, hs⟩ | ⟨rest, -, hs⟩ | ⟨z, off, rest, -, hs⟩ | ⟨z, off, v, rest, -, hs⟩ := step_cases s
    <;> rw [hs]
  · exact h.exists_engineStep
  · have hrest : State.Inv { s with inbox := rest } := h.of_eq rfl rfl rfl rfl
    exact hrest.exists_engineStep
  · exact ⟨_, rfl⟩
  · exact ⟨_, rfl⟩
  · exact ⟨_, rfl⟩

end Sys2Proof.Machine

/-! Proofs of the statements about hazards and reset: the writes that are refused while busy, those that are not
(70_reset_and_hazards.md R380), and the reset input (R370). -/

namespace Sys2Proof.Machine

/-- While busy a write to CMD or to a data register raises BUSY and does nothing else. -/
theorem State.writeReg_eq_raiseError_of_busy {s : State} (hb : s.busy = true) {r : Reg} (v : Word)
    (hr : r = .cmd ∨ r.isData = true) : s.writeReg r v = s.raiseError .busy := by
  obtain rfl | hd := hr
  · exact State.offerCommand_of_busy hb v
  · rw [State.writeReg_data s v hd, if_pos hb]

/-- Settles O36: a write to CMD or to a data register raises BUSY alone; STATUS, IRQ_EN and ID take their writes in every
state. -/
theorem busyWritesAreDiscarded : Obligations.BusyWritesAreDiscarded := by
  intro s r v rest hb hi
  refine ⟨fun hr => ?_, ?_, ?_, ?_⟩
  · rw [step_write_reg r hi, State.writeReg_eq_raiseError_of_busy (s := { s with inbox := rest }) hb v hr,
      State.raiseError_eq]
    rfl
  · rintro rfl
    obtain ⟨t, hstep, rfl, -⟩ := statusWritesClearDoneAndErr s v rest hi
    exact hstep
  · rintro rfl
    exact step_write_reg .irqEn hi
  · rintro rfl
    exact step_write_reg .id hi

/-- Settles O39: the step is `applyReset`, which keeps only the entries laid out and the count of free values. -/
theorem resetInputResetsEveryState : Obligations.ResetInputResetsEveryState :=
  fun _ _ hi => step_reset hi

end Sys2Proof.Machine
